-- ==== Sys2Proof/Word.lean ====
section
/-!
DEFINITION. The two word types of the hardware (spec 00_scope.md R4).
-/

namespace Sys2Proof

/-- A byte: unsigned 0 to 255, bit 7 the most significant (R4). -/
abbrev Byte := BitVec 8

/-- A word: unsigned 0 to 65535; PC, SP, register pairs and addresses are words (R4, R15, R18, R33). -/
abbrev Word := BitVec 16

end Sys2Proof
end

