-- ==== Sys2Proof/Config.lean ====
section
/-!
DEFINITION. The platform around the CPU (00_scope.md R3): the plain-data forms of its parameters, which
State holds, and the free values, which nothing in Lean can evaluate.
-/

namespace Sys2Proof

/-- An entry of the event history (10_state.md R36). -/
inductive Event where
  /-- An I/O read cycle: the 16-bit value on the address bus and the byte the device presented (R57). -/
  | ioRead (port : Word) (value : Byte)
  /-- An I/O write cycle: the 16-bit value on the address bus and the byte on the data bus (R58). -/
  | ioWrite (port : Word) (value : Byte)
  /-- The completion signal of RETI, which carries no data (R188). -/
  | retiDone
  deriving DecidableEq, Repr

/-- What the parameter `MemMap` says of an address (R3). -/
inductive MemKind where
  | ram | rom | absent
  deriving DecidableEq, Repr

/-- A stretch of the memory map: the addresses from `base` on, `size` of them. -/
structure Region where
  base : Nat
  size : Nat
  kind : MemKind
  deriving DecidableEq, Repr

/-- The states of an interrupting device of the daisy chain, as 60_exceptions.md R189 names them. -/
inductive DeviceState where
  | idle | requesting | underService
  deriving DecidableEq, Repr

/-- The daisy chain, the device of highest priority first (R187, R189). -/
abbrev Chain := List DeviceState

/-- What the environment does during one step: the input `nmi_req` (R3, R182), and the devices of the
chain, by position, that raise a maskable request (R35 b). -/
structure PlatformInput where
  nmiReq : Bool
  intReqs : List Nat
  deriving DecidableEq, Repr

/-- `draw()` of one bit (R38, R39): the value of the n-th draw of a run, left free. DESIGN CHOICE of the
form, log entry 7, safe. -/
opaque Config.freeBit : Nat → Bool

/-- `draw()` of one byte, the read of an absent address (20_memory.md R53): left free. Log entry 8, safe. -/
opaque Config.freeByte : Nat → Byte

/-- The oracle `IoEnv` (R3, R57): the byte a port read returns may depend on the whole event history, the
port value and a free choice, and is otherwise unconstrained. Log entry 6, safe. -/
opaque Config.ioEnv : List Event → Word → Nat → Byte

/-- `f_clk` in hertz: the 4 MHz of every timing line (R3). Used by the timing table only (R220). -/
def Config.clockHz : Nat := 4000000

end Sys2Proof
end

