-- ==== Sys2Proof/Machine/DaisyChain.lean ====
section
/-!
DEFINITION. The daisy chain of interrupting devices, each a small state machine as 60_exceptions.md R189
describes it, highest priority first. The devices are platform; the CPU's one action on them is the
completion signal of RETI (10_state.md R35 c). DEDUCED and DESIGN CHOICE where log entry 11 says so.
-/

namespace Sys2Proof.Machine

/-- A device's interrupt-enable output: low while the device is being serviced (R35 c, R189). -/
def ieo (d : DeviceState) : Bool :=
  match d with
  | .idle => true
  | .requesting => true
  | .underService => false

/-- A request that no device of higher priority under service holds back (R187, R189). -/
def Chain.requests : Chain → Bool
  | [] => false
  | .requesting :: _ => true
  | .underService :: _ => false
  | .idle :: rest => Chain.requests rest

/-- The acknowledge of the highest request that nothing holds back: its device goes under service and its IEO
goes low (R189). No step of the model calls it, since acceptance is refused (R186). -/
def Chain.acknowledge : Chain → Chain
  | [] => []
  | .requesting :: rest => .underService :: rest
  | .underService :: rest => .underService :: rest
  | .idle :: rest => .idle :: Chain.acknowledge rest

/-- The completion signal: the highest-priority device under service is done and its IEO is restored
(R188, R189). Without a device under service nothing happens. -/
def Chain.retiDone : Chain → Chain
  | [] => []
  | .underService :: rest => .idle :: rest
  | .idle :: rest => .idle :: Chain.retiDone rest
  | .requesting :: rest => .requesting :: Chain.retiDone rest

/-- The device at one position raises a request, if it is idle (log entry 11). -/
def Chain.raiseOne : Chain → Nat → Chain
  | [], _ => []
  | .idle :: rest, 0 => .requesting :: rest
  | .requesting :: rest, 0 => .requesting :: rest
  | .underService :: rest, 0 => .underService :: rest
  | d :: rest, k + 1 => d :: Chain.raiseOne rest k

/-- Several devices raise their requests. -/
def Chain.raise (ch : Chain) (ks : List Nat) : Chain := ks.foldl Chain.raiseOne ch

end Sys2Proof.Machine
end

