-- ==== Sys2Proof/Syntax.lean ====
section
/-!
DEFINITION. The instructions: one constructor per row of spec/opcode_table.json, and the operand classes
they use.
-/

namespace Sys2Proof

/-- The seven registers an `r` field can name (10_state.md R10, R11). The field value 110 names none of
them and has no constructor (30_encoding.md R91). -/
inductive Reg where
  | b | c | d | e | h | l | a
  deriving DecidableEq, Repr

/-- The eight conditions a `cc` field can name (10_state.md R28). -/
inductive Cond where
  | nz | z | nc | c | po | pe | p | m
  deriving DecidableEq, Repr

/-- The admitted instructions (00_scope.md R2). The operand of `rst` is the target byte `p` as the source
writes it (R88, R94 e), not the field `t`; WellFormed says which bytes it may be. -/
inductive Instr where
  | ret                   -- RET, R110
  | retCc (cc : Cond)     -- RET cc, R111
  | reti                  -- RETI, R113
  | retn                  -- RETN, R114
  | rst (p : Byte)        -- RST p, R116
  | inAN (n : Byte)       -- IN A,(n), R130
  | inRC (r : Reg)        -- IN r,(C), R131
  | ini                   -- INI, R132
  | inir                  -- INIR, R133
  | ind                   -- IND, R134
  | indr                  -- INDR, R135
  | outNA (n : Byte)      -- OUT (n),A, R150
  | outCR (r : Reg)       -- OUT (C),r, R151
  | outi                  -- OUTI, R152
  | otir                  -- OTIR, R153
  | outd                  -- OUTD, R154
  | otdr                  -- OTDR, R155
  deriving DecidableEq, Repr

end Sys2Proof
end

