-- ==== Sys2Proof/Machine/State.lean ====
section
/-!
DEFINITION. The state of the machine as plain data, the reasons a step can stop, and the state after reset.
-/

namespace Sys2Proof.Machine

/-- The flag register (10_state.md R20): six flags and the unused bits 5 and 3. R21 lets a model keep the
flags as separate bits; the byte is a view, in Flags.lean. -/
structure Flags where
  s : Bool
  z : Bool
  x5 : Bool
  h : Bool
  x3 : Bool
  pv : Bool
  n : Bool
  c : Bool
  deriving DecidableEq, Repr

/-- The interrupt modes that IM 0, IM 1 and IM 2 name (R14, R32). -/
inductive IntMode where
  | mode0 | mode1 | mode2
  deriving DecidableEq, Repr

/-- Memory: the bytes that differ from what an unlisted address reads as, by rising address. -/
abbrev Memory := List Host.Cell

/-- Every piece of state the spec names (10_state.md section 1, R14, R35, R36; 00_scope.md R3). -/
@[ext]
structure State where
  /-- the general registers (R10) -/
  a : Byte
  b : Byte
  c : Byte
  d : Byte
  e : Byte
  h : Byte
  l : Byte
  /-- the flag register F (R20) -/
  f : Flags
  /-- the program counter (R15) and the stack pointer (R18) -/
  pc : Word
  sp : Word
  /-- the interrupt-enable flip-flops (R30, R31) -/
  iff1 : Bool
  iff2 : Bool
  /-- registers the source names and no admitted instruction touches (R14, R32) -/
  a' : Byte
  f' : Flags
  b' : Byte
  c' : Byte
  d' : Byte
  e' : Byte
  h' : Byte
  l' : Byte
  ix : Word
  iy : Word
  i : Byte
  r : Byte
  im : IntMode
  /-- the bytes stored in memory (R33) -/
  mem : Memory
  /-- the parameter `MemMap` (R3): the first region that holds an address gives its kind, and an address
  in no region is ram -/
  memMap : List Region
  /-- the bytes the platform presents to the coming I/O reads, in order (R57) -/
  portBytes : List Byte
  /-- what the environment does during the coming steps, one entry a step (R3, R183) -/
  inputs : List PlatformInput
  /-- the interrupting devices (R35 c, R189) -/
  chain : Chain
  /-- the latch of the non-maskable request (R35 a, R182) -/
  nmiPending : Bool
  /-- the event history, oldest first (R36) -/
  history : List Event
  /-- the parameter `end_pc` (R213) -/
  endPc : Option Word
  /-- the MODEL's own counter of free values drawn so far; no register of the hardware (log entry 7) -/
  draws : Nat
  deriving DecidableEq, Repr

/-- Why a step stops with a fault. The hardware has none (60_exceptions.md R180). -/
inductive Fault where
  /-- Raised by `step` when PC = `end_pc` at a boundary (70_reset_and_hazards.md R213): the run is over and
  the state stands. Safe: it stops a run that the claim itself ends there. Log entry 18. -/
  | endOfRun
  deriving DecidableEq, Repr

/-- Why the model refuses. -/
inductive Refusal where
  /-- An instruction of the table without a meaning; raised by no arm of this model. Safe. -/
  | notModelled (mnemonic : String)
  /-- Raised by `step` on bytes that R81 does not decode (R91, R92), naming the bytes fetched. Safe. -/
  | unspecifiedEncoding (bytes : List Byte)
  /-- Raised by `step` when an NMI meets IFF1 different from IFF2 (R185). Safe. -/
  | nestedNmi
  /-- Raised by `step` when a maskable request meets IFF1 = 1 (R186). Safe. -/
  | maskableInterrupt
  deriving DecidableEq, Repr

/-- All flags reset. -/
def Flags.clear : Flags :=
  ⟨false, false, false, false, false, false, false, false⟩

/-- The machine after reset. The spec gives no reset value as a rule (R37, R211). PC, IFF1, IFF2, the
interrupt mode, I and R have the values R37 lists as general knowledge (PRESUMED, log entry 2, unsafe); every
other register is zero (DESIGN CHOICE, log entry 3, unsafe); memory lists nothing (log entry 4);
`nmi_pending` is 0 and the history empty (R37); the platform is the spec's default (R3). -/
def State.reset : State where
  a := 0#8
  b := 0#8
  c := 0#8
  d := 0#8
  e := 0#8
  h := 0#8
  l := 0#8
  f := Flags.clear
  pc := 0#16
  sp := 0#16
  iff1 := false
  iff2 := false
  a' := 0#8
  f' := Flags.clear
  b' := 0#8
  c' := 0#8
  d' := 0#8
  e' := 0#8
  h' := 0#8
  l' := 0#8
  ix := 0#16
  iy := 0#16
  i := 0#8
  r := 0#8
  im := .mode0
  mem := []
  memMap := []
  portBytes := []
  inputs := []
  chain := []
  nmiPending := false
  history := []
  endPc := none
  draws := 0

end Sys2Proof.Machine
end

