-- ==== Sys2Proof/Machine/Ops.lean ====
section
/-!
DEFINITION. The primitives of the pseudocode (00_scope.md R6): memory, stack, I/O, the completion signal,
the entry of the non-maskable interrupt, and what the environment does between steps.
-/

namespace Sys2Proof.Machine

/-! ### Words and their halves -/

/-- `hi(w)` (R4). -/
def hi (w : Word) : Byte := w.extractLsb' 8 8

/-- `lo(w)` (R4). -/
def lo (w : Word) : Byte := w.extractLsb' 0 8

/-- `x ++ y`: the first byte is the high one (R4, R12). -/
def cat (x y : Byte) : Word := x ++ y

/-! ### Memory as a list in canonical form -/

/-- What an address that is not listed reads as. DESIGN CHOICE, log entry 4, unsafe: the spec leaves the
contents at launch to the platform (`mem0`, R3). -/
def Memory.unlisted : Byte := 0#8

/-- The byte stored at an address. -/
def Memory.read : Memory → Nat → Byte
  | [], _ => Memory.unlisted
  | (k, v) :: m, a => if a = k then v else Memory.read m a

/-- The list without its entries for one address. -/
def Memory.erase : Memory → Nat → Memory
  | [], _ => []
  | (k, v) :: m, a => if a = k then Memory.erase m a else (k, v) :: Memory.erase m a

/-- An entry put at its place by rising address. -/
def Memory.insert : Memory → Nat → Byte → Memory
  | [], a, v => [(a, v)]
  | (k, w) :: m, a, v => if a < k then (a, v) :: (k, w) :: m else (k, w) :: Memory.insert m a v

/-- One byte stored; writing what an unlisted address reads as removes the entry. -/
def Memory.write (m : Memory) (a : Nat) (v : Byte) : Memory :=
  if v = Memory.unlisted then Memory.erase m a else Memory.insert (Memory.erase m a) a v

/-- The canonical form: addresses below 2^16 (R33) and strictly rising, and no entry equal to what an
unlisted address reads as. -/
abbrev Memory.wf (m : Memory) : Prop :=
  m.Pairwise (fun x y => x.1 < y.1) ∧ ∀ x ∈ m, x.1 < 65536 ∧ x.2 ≠ Memory.unlisted

/-! ### The memory map -/

/-- The kind of an address: that of the first region that holds it, ram where none does (R3, D4). -/
def memKindIn : List Region → Nat → MemKind
  | [], _ => .ram
  | g :: gs, a => if g.base ≤ a ∧ a < g.base + g.size then g.kind else memKindIn gs a

/-- `MemMap` at a 16-bit address (R3). -/
def State.kindAt (s : State) (a : Word) : MemKind := memKindIn s.memMap a.toNat

/-- The byte stored at a 16-bit address (R33, R53). -/
def State.byteAt (s : State) (a : Word) : Byte := Memory.read s.mem a.toNat

/-! ### Memory access -/

/-- The byte a read of an address returns now (20_memory.md R53): the byte stored there, and at an absent address a
draw. -/
def State.readByte (s : State) (a : Word) : Byte :=
  match s.kindAt a with
  | .absent => Config.freeByte s.draws
  | .ram => s.byteAt a
  | .rom => s.byteAt a

/-- The number of free values a read of an address draws. -/
def MemKind.readDraws (k : MemKind) : Nat :=
  match k with
  | .absent => 1
  | .ram => 0
  | .rom => 0

/-- `MemRead(a, 1)` (R53): no side effect on CPU state, and no event. -/
def State.memRead (s : State) (a : Word) : Byte × State :=
  (s.readByte a, { s with draws := s.draws + MemKind.readDraws (s.kindAt a) })

/-- The memory after a write to an address of some kind (R54): rom and absent addresses keep what they hold. -/
def Memory.store (m : Memory) (k : MemKind) (a : Nat) (v : Byte) : Memory :=
  match k with
  | .ram => Memory.write m a v
  | .rom => m
  | .absent => m

/-- `MemWrite(a, 1, v)` (R54). -/
def State.memWrite (s : State) (a : Word) (v : Byte) : State :=
  { s with mem := Memory.store s.mem (s.kindAt a) a.toNat v }

/-- `Fetch()` (30_encoding.md R81): the byte at PC, and PC moves past it (R16), modulo 2^16 (R17). -/
def State.fetchByte (s : State) : Byte × State :=
  let x := s.memRead s.pc
  (x.1, { x.2 with pc := x.2.pc + 1#16 })

/-! ### The stack -/

/-- `Pop16()` (R51): the low byte at SP, then the high byte at SP+1; SP ends two higher, modulo 2^16 (R19). -/
def State.pop16 (s : State) : Word × State :=
  let x := s.memRead s.sp
  let s1 := { x.2 with sp := x.2.sp + 1#16 }
  let y := s1.memRead s1.sp
  (cat y.1 x.1, { y.2 with sp := y.2.sp + 1#16 })

/-- `Push16(w)` (R52): the high byte at SP-1, then the low byte at SP-2; SP ends two lower. -/
def State.push16 (s : State) (w : Word) : State :=
  let s1 := { s with sp := s.sp - 1#16 }
  let s2 := s1.memWrite s1.sp (hi w)
  let s3 := { s2 with sp := s2.sp - 1#16 }
  s3.memWrite s3.sp (lo w)

/-- `PC <- Pop16()`, which the four returns share (R110, R112). -/
def State.popPc (s : State) : State :=
  let x := s.pop16
  { x.2 with pc := x.1 }

/-- `Push16(PC)` and a jump to a fixed address, which RST and the NMI entry share (R116, R184). -/
def State.callFixed (s : State) (target : Word) : State :=
  { s.push16 s.pc with pc := target }

/-! ### Input and output -/

/-- The byte the device presents to a read of `port` now: the platform's next byte, or else what the oracle
`IoEnv` answers (R57, log entry 6). -/
def State.portByte (s : State) (port : Word) : Byte :=
  match s.portBytes with
  | v :: _ => v
  | [] => Config.ioEnv s.history port s.draws

/-- `IoRead(port)` (R57): always completes, and is recorded in the history. -/
def State.ioRead (s : State) (port : Word) : Byte × State :=
  (s.portByte port,
    { s with
      portBytes := s.portBytes.tail
      history := s.history ++ [.ioRead port (s.portByte port)]
      draws := s.draws + 1 })

/-- `IoWrite(port, v)` (R58): always completes, is recorded in the history, and changes no CPU state. -/
def State.ioWrite (s : State) (port : Word) (v : Byte) : State :=
  { s with history := s.history ++ [.ioWrite port v] }

/-- `Signal(RetiDone)` (60_exceptions.md R188): an event without data, which the device being serviced acts
on (R189). -/
def State.signalRetiDone (s : State) : State :=
  { s with history := s.history ++ [.retiDone], chain := Chain.retiDone s.chain }

/-! ### Interrupts -/

/-- The return from an interrupt restores IFF1 from IFF2 (R113, R114, R190). -/
def State.restoreIff1 (s : State) : State := { s with iff1 := s.iff2 }

/-- The entry address of the non-maskable interrupt (20_memory.md R59). -/
def nmiAddress : Word := 0x0066#16

/-- `NmiEntry()` (R184): the request is consumed, PC pushed, PC at 0066H, IFF1 cleared and IFF2 kept. -/
def State.nmiEntry (s : State) : State :=
  let s1 := { s with nmiPending := false }
  let s2 := s1.callFixed nmiAddress
  { s2 with iff1 := false }

/-- The non-maskable interrupt at a boundary: refused where IFF1 and IFF2 differ (R185), taken otherwise. -/
def takeNmi (s : State) : Host.Outcome State Fault Refusal :=
  if s.iff1 = s.iff2 then .next s.nmiEntry else .refused .nestedNmi

/-- A maskable request that the CPU would recognise: IFF1 = 1 and a device requests (R183, R186). -/
def State.maskableSeen (s : State) : Bool := s.iff1 && Chain.requests s.chain

/-- A run ends where PC = `end_pc` (70_reset_and_hazards.md R213). -/
def State.runEnded (s : State) : Bool := s.endPc == some s.pc

/-- `nmi_req` during this step (R3, R182). -/
def nmiRequested (xs : List PlatformInput) : Bool :=
  match xs with
  | [] => false
  | x :: _ => x.nmiReq

/-- The devices that raise a maskable request during this step (R35 b). -/
def devicesRaised (xs : List PlatformInput) : List Nat :=
  match xs with
  | [] => []
  | x :: _ => x.intReqs

/-- What the environment did during the step: a non-maskable request sets the latch (R182) and devices raise
their maskable requests (R35 b), both to be sampled at the next boundary (R183). Log entry 9. -/
def State.latchInputs (s : State) : State :=
  { s with
    inputs := s.inputs.tail
    nmiPending := s.nmiPending || nmiRequested s.inputs
    chain := Chain.raise s.chain (devicesRaised s.inputs) }

/-- The end of a step that goes on: the environment's inputs of this step are latched. -/
def afterStep (o : Host.Outcome State Fault Refusal) : Host.Outcome State Fault Refusal :=
  match o with
  | .next t => .next t.latchInputs
  | .fault r => .fault r
  | .refused r => .refused r

end Sys2Proof.Machine
end

