-- ==== Sys2Proof/Machine/Flags.lean ====
section
/-!
DEFINITION. The flag computations of the FLAGS chapter (10_state.md R20 to R29), the conditions, and the two
flag updates of the admitted subset.

Of the computations, the subset uses sign, zero and parity. The others concern instructions whose pages are
lost; they are what the chapter says of the flags and no instruction of the model calls them (log entry 26).
-/

namespace Sys2Proof.Machine

/-! ### F as a byte -/

/-- F as a byte: S Z X5 H X3 P/V N C from bit 7 down (R21). PRESUMED (G8), log entry 17; no instruction reads
or writes F as a byte. -/
def Flags.toByte (f : Flags) : Byte :=
  BitVec.ofBool f.s ++ BitVec.ofBool f.z ++ BitVec.ofBool f.x5 ++ BitVec.ofBool f.h ++
    BitVec.ofBool f.x3 ++ BitVec.ofBool f.pv ++ BitVec.ofBool f.n ++ BitVec.ofBool f.c

/-- The flags of a byte, in the layout of R21. -/
def Flags.ofByte (v : Byte) : Flags where
  s := v.getLsbD 7
  z := v.getLsbD 6
  x5 := v.getLsbD 5
  h := v.getLsbD 4
  x3 := v.getLsbD 3
  pv := v.getLsbD 2
  n := v.getLsbD 1
  c := v.getLsbD 0

/-! ### Computations -/

/-- The sign flag of a byte: its bit 7 (R27). -/
def signOf (v : Byte) : Bool := v.getLsbD 7

/-- The zero flag of a byte (R26 a, f). -/
def zeroOf (v : Byte) : Bool := v == 0#8

/-- The number of 1 bits of a byte (R4). -/
def onesOf (v : Byte) : Nat := ((List.range 8).filter fun k => v.getLsbD k).length

/-- `parity_even(v)`: the number of 1 bits is even (R4, R24 b and e). -/
def parityEven (v : Byte) : Bool := onesOf v % 2 == 0

/-- The carry out of bit 7 of an addition with a carry in (R22 a, d). -/
def carryOfAdd (x y : Byte) (cin : Bool) : Bool := decide (256 ≤ x.toNat + y.toNat + cin.toNat)

/-- The carry from bit 6 into bit 7 of an addition with a carry in (R24 a). -/
def carryIntoSign (x y : Byte) (cin : Bool) : Bool :=
  decide (128 ≤ x.toNat % 128 + y.toNat % 128 + cin.toNat)

/-- The borrow of a subtraction: the complement of the carry of the addition the CPU performs in its place,
minuend plus complement of the subtrahend plus 1, less the borrow in (R22 b, c, d). DEDUCED, log entry 26. -/
def borrowOfSub (x y : Byte) (bin : Bool) : Bool := !carryOfAdd x (~~~y) (!bin)

/-- The half carry of an addition: from bit 3 to bit 4 (R25). -/
def halfCarryOfAdd (x y : Byte) (cin : Bool) : Bool :=
  decide (16 ≤ x.toNat % 16 + y.toNat % 16 + cin.toNat)

/-- The half borrow of a subtraction: from bit 4 (R25). -/
def halfBorrowOfSub (x y : Byte) (bin : Bool) : Bool :=
  decide (x.toNat % 16 < y.toNat % 16 + bin.toNat)

/-- The overflow of an addition: operands of one sign and a result of the other (R24 a). -/
def overflowOfAdd (x y : Byte) : Bool :=
  (signOf x == signOf y) && (signOf (x + y) != signOf x)

/-- The overflow of a subtraction: operands of opposite signs and a result whose sign is not the minuend's
(R24 a). -/
def overflowOfSub (x y : Byte) : Bool :=
  (signOf x != signOf y) && (signOf (x - y) != signOf x)

/-- P/V after a block search or transfer, from the byte counter after its decrement (R24 c). -/
def pvOfCounter (bc : Word) : Bool := bc != 0#16

/-- The zero flag of a comparison with the accumulator (R26 b). -/
def zeroOfCompare (acc v : Byte) : Bool := acc == v

/-- The zero flag of a bit test: the complement of the tested bit (R26 c). -/
def zeroOfBit (v : Byte) (k : Nat) : Bool := !v.getLsbD k

/-! ### Conditions -/

/-- `cond(cc)` (R28). -/
def condHolds (cc : Cond) (f : Flags) : Bool :=
  match cc with
  | .nz => !f.z
  | .z => f.z
  | .nc => !f.c
  | .c => f.c
  | .po => !f.pv
  | .pe => f.pv
  | .p => !f.s
  | .m => f.s

/-! ### Flag updates of the admitted subset -/

/-- The flags after IN r,(C) reads `v` (R131): S, Z and P/V from the byte, H and N reset, C unchanged, and
the unused bits drawn (R39). -/
def State.setInputFlags (s : State) (v : Byte) : State :=
  { s with
    f :=
      { s := signOf v
        z := zeroOf v
        x5 := Config.freeBit s.draws
        h := false
        x3 := Config.freeBit (s.draws + 1)
        pv := parityEven v
        n := false
        c := s.f.c }
    draws := s.draws + 2 }

/-- The flags after one block transfer whose counter is now `count` (R136, R156): Z from the counter, N set,
C unchanged, S, H and P/V "Non definito" (R38) and the unused bits (R39) drawn. -/
def State.setBlockFlags (s : State) (count : Byte) : State :=
  { s with
    f :=
      { s := Config.freeBit s.draws
        z := zeroOf count
        x5 := Config.freeBit (s.draws + 1)
        h := Config.freeBit (s.draws + 2)
        x3 := Config.freeBit (s.draws + 3)
        pv := Config.freeBit (s.draws + 4)
        n := true
        c := s.f.c }
    draws := s.draws + 5 }

end Sys2Proof.Machine
end

