-- ==== Sys2Proof/WellFormed.lean ====
section
/-!
DEFINITION. Which terms of `Instr` are instructions of the hardware.
-/

namespace Sys2Proof

/-- The restart operand is one of 00H, 08H, 10H, 18H, 20H, 28H, 30H, 38H (30_encoding.md R88). Every other
operand form is well formed by its type: a register code 110 cannot be written (R91). -/
def Instr.wellFormed : Instr → Bool
  | .ret => true
  | .retCc _ => true
  | .reti => true
  | .retn => true
  | .rst p => p &&& 0xC7#8 == 0#8
  | .inAN _ => true
  | .inRC _ => true
  | .ini => true
  | .inir => true
  | .ind => true
  | .indr => true
  | .outNA _ => true
  | .outCR _ => true
  | .outi => true
  | .otir => true
  | .outd => true
  | .otdr => true

end Sys2Proof
end

