-- ==== Sys2Proof/Decode.lean ====
section
/-!
DEFINITION. The decoder (30_encoding.md R81), total on any bytes, and after it the encoder, both written
from the encoding tables of R82 to R86 and R90.

The fixed bits of RET cc, RST p, OUT (n),A, the second bytes of IN r,(C) and OUT (C),r, and OUTI and OTIR
are PRESUMED: the spec supplies them from general knowledge (G1 to G7), log entry 13, unsafe.
-/

namespace Sys2Proof

/-! ### Field tables -/

/-- The register a 3-bit field selects (R11); 110 is in no table (R91). -/
def Reg.ofCode (v : BitVec 3) : Option Reg :=
  if v = 0b000#3 then some .b
  else if v = 0b001#3 then some .c
  else if v = 0b010#3 then some .d
  else if v = 0b011#3 then some .e
  else if v = 0b100#3 then some .h
  else if v = 0b101#3 then some .l
  else if v = 0b111#3 then some .a
  else none

/-- The 3-bit field of a register (R11). -/
def Reg.code : Reg → BitVec 3
  | .b => 0b000#3
  | .c => 0b001#3
  | .d => 0b010#3
  | .e => 0b011#3
  | .h => 0b100#3
  | .l => 0b101#3
  | .a => 0b111#3

/-- The condition a 3-bit field selects (R28). -/
def Cond.ofCode (v : BitVec 3) : Cond :=
  if v = 0b000#3 then .nz
  else if v = 0b001#3 then .z
  else if v = 0b010#3 then .nc
  else if v = 0b011#3 then .c
  else if v = 0b100#3 then .po
  else if v = 0b101#3 then .pe
  else if v = 0b110#3 then .p
  else .m

/-- The 3-bit field of a condition (R28). -/
def Cond.code : Cond → BitVec 3
  | .nz => 0b000#3
  | .z => 0b001#3
  | .nc => 0b010#3
  | .c => 0b011#3
  | .po => 0b100#3
  | .pe => 0b101#3
  | .p => 0b110#3
  | .m => 0b111#3

/-- The restart operand of a field `t`: `p = 00 ttt 000` (R88). -/
def restartOfCode (t : BitVec 3) : Byte := 0b00#2 ++ t ++ 0b000#3

/-- The field `t` of a restart operand: bits 5 to 3 (R88). -/
def restartCode (p : Byte) : BitVec 3 := p.extractLsb' 3 3

/-! ### Decoding -/

/-- The first bytes that announce a second one (R80). -/
inductive Lead where
  | inA     -- DBH
  | outA    -- D3H
  | ed      -- EDH
  deriving DecidableEq, Repr

/-- What the first byte alone decides (R80, R81). -/
inductive Opening where
  | done (i : Instr)
  | more (k : Lead)
  | unspecified
  deriving DecidableEq, Repr

/-- The first-byte tests of R81, in its order. -/
def decodeFirst (b0 : Byte) : Opening :=
  if b0 = 0xC9#8 then .done .ret
  else if b0 &&& 0xC7#8 = 0xC0#8 then .done (.retCc (Cond.ofCode (b0.extractLsb' 3 3)))
  else if b0 &&& 0xC7#8 = 0xC7#8 then .done (.rst (restartOfCode (b0.extractLsb' 3 3)))
  else if b0 = 0xDB#8 then .more .inA
  else if b0 = 0xD3#8 then .more .outA
  else if b0 = 0xED#8 then .more .ed
  else .unspecified

/-- The tests of R81 on the byte after EDH; `none` is R81's refusal, the r = 110 forms of R91 among them. -/
def decodeEd (b1 : Byte) : Option Instr :=
  if b1 = 0x4D#8 then some .reti
  else if b1 = 0x45#8 then some .retn
  else if b1 = 0xA2#8 then some .ini
  else if b1 = 0xB2#8 then some .inir
  else if b1 = 0xAA#8 then some .ind
  else if b1 = 0xBA#8 then some .indr
  else if b1 = 0xA3#8 then some .outi
  else if b1 = 0xB3#8 then some .otir
  else if b1 = 0xAB#8 then some .outd
  else if b1 = 0xBB#8 then some .otdr
  else if b1 &&& 0xC7#8 = 0x40#8 then (Reg.ofCode (b1.extractLsb' 3 3)).map .inRC
  else if b1 &&& 0xC7#8 = 0x41#8 then (Reg.ofCode (b1.extractLsb' 3 3)).map .outCR
  else none

/-- What the second byte decides, given what the first announced (R81, R84). -/
def decodeSecond (k : Lead) (b1 : Byte) : Option Instr :=
  match k with
  | .inA => some (.inAN b1)
  | .outA => some (.outNA b1)
  | .ed => decodeEd b1

/-- The answer of the decoder on a list of bytes. `unspecified` names the bytes of the refused encoding
(R92); `truncated` says that the list ended before the instruction did. -/
inductive Decoded where
  | instr (i : Instr) (rest : List Byte)
  | unspecified (bytes : List Byte)
  | truncated
  deriving DecidableEq, Repr

/-- Decoding is total (R81): every list of bytes begins with an instruction, is refused by name, or is too
short to say. -/
def decode (bytes : List Byte) : Decoded :=
  match bytes with
  | [] => .truncated
  | b0 :: rest =>
    match decodeFirst b0 with
    | .done i => .instr i rest
    | .unspecified => .unspecified [b0]
    | .more k =>
      match rest with
      | [] => .truncated
      | b1 :: rest' =>
        match decodeSecond k b1 with
        | some i => .instr i rest'
        | none => .unspecified [b0, b1]

/-! ### Encoding -/

/-- The bytes of an instruction, in fetch order (R82 to R86). -/
def encode : Instr → List Byte
  | .ret => [0xC9#8]
  | .retCc cc => [0b11#2 ++ cc.code ++ 0b000#3]
  | .reti => [0xED#8, 0x4D#8]
  | .retn => [0xED#8, 0x45#8]
  | .rst p => [0b11#2 ++ restartCode p ++ 0b111#3]
  | .inAN n => [0xDB#8, n]
  | .inRC r => [0xED#8, 0b01#2 ++ r.code ++ 0b000#3]
  | .ini => [0xED#8, 0xA2#8]
  | .inir => [0xED#8, 0xB2#8]
  | .ind => [0xED#8, 0xAA#8]
  | .indr => [0xED#8, 0xBA#8]
  | .outNA n => [0xD3#8, n]
  | .outCR r => [0xED#8, 0b01#2 ++ r.code ++ 0b001#3]
  | .outi => [0xED#8, 0xA3#8]
  | .otir => [0xED#8, 0xB3#8]
  | .outd => [0xED#8, 0xAB#8]
  | .otdr => [0xED#8, 0xBB#8]

/-- The number of bytes of an instruction (R80 and its table of formats). -/
def Instr.size : Instr → Nat
  | .ret => 1
  | .retCc _ => 1
  | .reti => 2
  | .retn => 2
  | .rst _ => 1
  | .inAN _ => 2
  | .inRC _ => 2
  | .ini => 2
  | .inir => 2
  | .ind => 2
  | .indr => 2
  | .outNA _ => 2
  | .outCR _ => 2
  | .outi => 2
  | .otir => 2
  | .outd => 2
  | .otdr => 2

/-! ### Words numbered as the opcode table numbers them -/

/-- The two bytes, in fetch order, of an instruction whose bits are `w`. The table writes a row's bytes in
fetch order with the FIRST byte leftmost (R90), so that in a two-byte row the first byte is bits 15 to 8 and
the second bits 7 to 0. A one-byte row is followed by a byte of zeros. DEDUCED, log entry 1. -/
def tableBytes (nbits w : Nat) : List Byte :=
  if nbits ≤ 8 then [BitVec.ofNat 8 w, 0#8] else [BitVec.ofNat 8 (w / 256), BitVec.ofNat 8 w]

/-- The instruction the decoder reads from an instruction whose bits are `w`, of `nbits` bits. -/
def decodeTableWord (nbits w : Nat) : Option Instr :=
  match decode (tableBytes nbits w) with
  | .instr i _ => some i
  | .unspecified _ => none
  | .truncated => none

end Sys2Proof
end

