-- ==== Sys2Proof/Machine/Operands.lean ====
section
/-!
DEFINITION. The operand forms (30_encoding.md R87 to R89): registers, register pairs, the restart operand,
port addresses, and the direction of a block instruction.
-/

namespace Sys2Proof.Machine

/-- `reg[r]` (10_state.md R5, R11). -/
def State.getReg (s : State) (x : Reg) : Byte :=
  match x with
  | .b => s.b
  | .c => s.c
  | .d => s.d
  | .e => s.e
  | .h => s.h
  | .l => s.l
  | .a => s.a

/-- `reg[r] <- v` (R5, R11). -/
def State.setReg (s : State) (x : Reg) (v : Byte) : State :=
  match x with
  | .b => { s with b := v }
  | .c => { s with c := v }
  | .d => { s with d := v }
  | .e => { s with e := v }
  | .h => { s with h := v }
  | .l => { s with l := v }
  | .a => { s with a := v }

/-- The pair BC, B the high byte (R12). -/
def State.bc (s : State) : Word := cat s.b s.c

/-- The pair DE, D the high byte (R12). PRESUMED (G9), log entry 14; no admitted instruction uses it. -/
def State.de (s : State) : Word := cat s.d s.e

/-- The pair HL, H the high byte (R12). PRESUMED (G9), log entry 14, unsafe. -/
def State.hl (s : State) : Word := cat s.h s.l

/-- `BC <- w`: writing a pair writes both registers (R12). -/
def State.setBC (s : State) (w : Word) : State := { s with b := hi w, c := lo w }

/-- `DE <- w` (R12). -/
def State.setDE (s : State) (w : Word) : State := { s with d := hi w, e := lo w }

/-- `HL <- w` (R5, R12). -/
def State.setHL (s : State) (w : Word) : State := { s with h := hi w, l := lo w }

/-- The 16-bit value of a cycle on port `(n)`: A on the high lines, n on the low (R34, R87). -/
def State.portN (s : State) (n : Byte) : Word := cat s.a n

/-- The 16-bit value of a cycle on port `(C)`: B on the high lines, C on the low (R34, R89). -/
def State.portC (s : State) : Word := cat s.b s.c

/-- The target of a restart: `00H ++ p` (R88). -/
def restartTarget (p : Byte) : Word := cat 0#8 p

/-- The direction of a block instruction: `dir` = +1 or -1 (41_input.md R136, 42_output.md R156). -/
inductive Dir where
  | up | down
  deriving DecidableEq, Repr

/-- `w +_16 dir`, modulo 2^16 (R136, D3). -/
def Dir.move (x : Dir) (w : Word) : Word :=
  match x with
  | .up => w + 1#16
  | .down => w - 1#16

/-- `PC <- PC -_16 2` unless B has reached zero: the repeat of INIR, INDR, OTIR and OTDR (R133, R153). -/
def State.repeatUnlessDone (s : State) : State :=
  { s with pc := if s.b = 0#8 then s.pc else s.pc - 2#16 }

end Sys2Proof.Machine
end

