-- ==== Sys2Proof/Machine/Input.lean ====
section
/-!
DEFINITION. The input instructions (41_input.md). Each meaning starts with PC past the instruction's bytes
(10_state.md R16).
-/

namespace Sys2Proof.Machine

/-- IN A,(n) (R130): the old A is on the high address lines; no flag changes. -/
def execInAN (n : Byte) (s : State) : Host.Outcome State Fault Refusal :=
  let x := s.ioRead (s.portN n)
  .next { x.2 with a := x.1 }

/-- IN r,(C) (R131): port and high lines from C and B before the instruction; the flags from the byte. -/
def execInRC (r : Reg) (s : State) : Host.Outcome State Fault Refusal :=
  let x := s.ioRead s.portC
  .next ((x.2.setReg r x.1).setInputFlags x.1)

/-- `BlockIn(dir)` (R136): the port is read with B before its decrement, the byte stored at HL, then B and HL
move and the flags are set. -/
def State.blockIn (s : State) (dir : Dir) : State :=
  let x := s.ioRead s.portC
  let s1 := x.2.memWrite x.2.hl x.1
  let s2 := { s1 with b := s1.b - 1#8 }
  let s3 := s2.setHL (dir.move s2.hl)
  s3.setBlockFlags s3.b

/-- INI (R132). -/
def execIni (s : State) : Host.Outcome State Fault Refusal := .next (s.blockIn .up)

/-- INIR (R133): one iteration; PC goes back to the instruction unless B has reached zero. -/
def execInir (s : State) : Host.Outcome State Fault Refusal := .next (s.blockIn .up).repeatUnlessDone

/-- IND (R134): HL is decremented, against the page's example (90_conflicts.md C2). -/
def execInd (s : State) : Host.Outcome State Fault Refusal := .next (s.blockIn .down)

/-- INDR (R135): one iteration, as INIR. -/
def execIndr (s : State) : Host.Outcome State Fault Refusal := .next (s.blockIn .down).repeatUnlessDone

end Sys2Proof.Machine
end

