-- ==== Sys2Proof/Machine/Output.lean ====
section
/-!
DEFINITION. The output instructions (42_output.md). Each meaning starts with PC past the instruction's bytes
(10_state.md R16).
-/

namespace Sys2Proof.Machine

/-- OUT (n),A (R150): A is on the high address lines and on the data bus. -/
def execOutNA (n : Byte) (s : State) : Host.Outcome State Fault Refusal :=
  .next (s.ioWrite (s.portN n) s.a)

/-- OUT (C),r (R151): no flag changes. -/
def execOutCR (r : Reg) (s : State) : Host.Outcome State Fault Refusal :=
  .next (s.ioWrite s.portC (s.getReg r))

/-- `BlockOut(dir)` (R156): the byte at HL is read, B decremented BEFORE the I/O cycle, then HL moves and the
flags are set. -/
def State.blockOut (s : State) (dir : Dir) : State :=
  let x := s.memRead s.hl
  let s1 := { x.2 with b := x.2.b - 1#8 }
  let s2 := s1.ioWrite s1.portC x.1
  let s3 := s2.setHL (dir.move s2.hl)
  s3.setBlockFlags s3.b

/-- OUTI (R152): HL is incremented, against the page's prose (90_conflicts.md C3). -/
def execOuti (s : State) : Host.Outcome State Fault Refusal := .next (s.blockOut .up)

/-- OTIR (R153): one iteration; PC goes back to the instruction unless B has reached zero. -/
def execOtir (s : State) : Host.Outcome State Fault Refusal := .next (s.blockOut .up).repeatUnlessDone

/-- OUTD (R154): HL is decremented, against the page's prose (90_conflicts.md C4). -/
def execOutd (s : State) : Host.Outcome State Fault Refusal := .next (s.blockOut .down)

/-- OTDR (R155): one iteration, as OTIR. -/
def execOtdr (s : State) : Host.Outcome State Fault Refusal := .next (s.blockOut .down).repeatUnlessDone

end Sys2Proof.Machine
end

