-- ==== Sys2Proof/Machine/ReturnRestart.lean ====
section
/-!
DEFINITION. The returns and the restart (40_return_restart.md). Each meaning starts with PC past the
instruction's bytes (10_state.md R16).
-/

namespace Sys2Proof.Machine

/-- RET (R110). -/
def execRet (s : State) : Host.Outcome State Fault Refusal := .next s.popPc

/-- RET cc (R111): as RET if the condition holds, else PC stays past the instruction and nothing is read. -/
def execRetCc (cc : Cond) (s : State) : Host.Outcome State Fault Refusal :=
  if condHolds cc s.f then .next s.popPc else .next s

/-- RETI (R113): pop, IFF1 <- IFF2, completion signal. The copy is the rule and the note its consequence
(90_conflicts.md C9, log entry 25). -/
def execReti (s : State) : Host.Outcome State Fault Refusal := .next s.popPc.restoreIff1.signalRetiDone

/-- RETN (R114): pop and IFF1 <- IFF2, without a signal (R115). -/
def execRetn (s : State) : Host.Outcome State Fault Refusal := .next s.popPc.restoreIff1

/-- RST p (R116): push PC and go to `00H ++ p`. That no flag changes is PRESUMED (G21), log entry 16. -/
def execRst (p : Byte) (s : State) : Host.Outcome State Fault Refusal :=
  .next (s.callFixed (restartTarget p))

end Sys2Proof.Machine
end

