-- ==== Sys2Proof/Machine/Fetch.lean ====
section
/-!
DEFINITION. Fetching and decoding the instruction at PC (30_encoding.md R81).
-/

namespace Sys2Proof.Machine

/-- What `Decode()` comes to: an instruction and the state with PC past its bytes, or the bytes of a refused
encoding (R81, R92). -/
inductive Fetched where
  | instr (x : Instr) (s : State)
  | unspecified (bytes : List Byte)
  deriving DecidableEq, Repr

/-- `Decode()` (R81): one byte is fetched, and a second one only where the first announces it (R80). -/
def fetchInstr (s : State) : Fetched :=
  let x := s.fetchByte
  match decodeFirst x.1 with
  | .done k => .instr k x.2
  | .unspecified => .unspecified [x.1]
  | .more lead =>
    let y := x.2.fetchByte
    match decodeSecond lead y.1 with
    | some k => .instr k y.2
    | none => .unspecified [x.1, y.1]

end Sys2Proof.Machine
end

