-- ==== Sys2Proof/Machine/Place.lean ====
section
/-!
DEFINITION. Placing an instruction where the machine fetches next: the stand-in for a program that the
platform loads (log entry 24).
-/

namespace Sys2Proof.Machine

/-- An absent address becomes ram, so that a byte stored there can be fetched; any other stays as it is. -/
def State.makePresent (s : State) (a : Word) : State :=
  match s.kindAt a with
  | .absent => { s with memMap := ⟨a.toNat, 1, .ram⟩ :: s.memMap }
  | .ram => s
  | .rom => s

/-- A byte put at an address by the platform, whatever the memory map says of it. -/
def State.place (s : State) (a : Word) (v : Byte) : State :=
  let t := s.makePresent a
  { t with mem := Memory.write t.mem a.toNat v }

/-- Bytes put at PC and the addresses after it. -/
def State.placeAll (s : State) (a : Word) : List Byte → State
  | [] => s
  | v :: vs => State.placeAll (s.place a v) (a + 1#16) vs

/-- What else the fetch needs at this boundary (R183): no end of the run here, no non-maskable request, and
no maskable request that the CPU would see. -/
def State.clearBoundary (s : State) : State :=
  { s with
    endPc := if s.endPc = some s.pc then none else s.endPc
    nmiPending := false
    chain := if s.maskableSeen then [] else s.chain }

end Sys2Proof.Machine
end

