-- ==== Sys2Proof/Machine/Step.lean ====
section
/-! DEFINITION. One step of the machine (60_exceptions.md R183), and the placing of an instruction to run. -/

namespace Sys2Proof.Machine

/-- One step (R183): the end of the run, a non-maskable interrupt, a maskable request, or one instruction, in
this order of tests. An NMI entry is the whole step. What the environment does meanwhile is latched at the
end. -/
def step (s : State) : Host.Outcome State Fault Refusal :=
  if s.runEnded then .fault .endOfRun
  else if s.nmiPending then afterStep (takeNmi s)
  else if s.maskableSeen then .refused .maskableInterrupt
  else
    match fetchInstr s with
    | .instr x t => afterStep (exec x t)
    | .unspecified bytes => .refused (.unspecifiedEncoding bytes)

/-- `s` with an instruction's bytes at PC, numbered as the opcode table numbers them (Decode.lean). -/
def State.withFetchWord (s : State) (nbits w : Nat) : State :=
  s.clearBoundary.placeAll s.pc (tableBytes nbits w)

end Sys2Proof.Machine
end

