-- ==== Sys2Proof/Machine/Timing.lean ====
section
/-!
DEFINITION. The timing lines of every page (70_reset_and_hazards.md R220, R221), as functions beside the
machine: the machine counts no time (D22, log entry 22).
-/

namespace Sys2Proof.Machine

/-- The T states of each M cycle of an instruction that executes in state `s` (PC past its bytes) (R220).
A repeat has the extra five-state cycle where B is not zero after the decrement (90_conflicts.md C5). -/
def tStates (x : Instr) (s : State) : List Nat :=
  match x with
  | .ret => [4, 3, 3]
  | .retCc cc => if condHolds cc s.f then [5, 3, 3] else [5]
  | .reti => [4, 4, 3, 3]
  | .retn => [4, 4, 3, 3]
  | .rst _ => [5, 3, 3]
  | .inAN _ => [4, 3, 4]
  | .inRC _ => [4, 4, 4]
  | .ini => [4, 5, 3, 4]
  | .inir => if s.b = 1#8 then [4, 5, 3, 4] else [4, 5, 3, 4, 5]
  | .ind => [4, 5, 3, 4]
  | .indr => if s.b = 1#8 then [4, 5, 3, 4] else [4, 5, 3, 4, 5]
  | .outNA _ => [4, 3, 4]
  | .outCR _ => [4, 4, 4]
  | .outi => [4, 5, 3, 4]
  | .otir => if s.b = 1#8 then [4, 5, 3, 4] else [4, 5, 3, 4, 5]
  | .outd => [4, 5, 3, 4]
  | .otdr => if s.b = 1#8 then [4, 5, 3, 4] else [4, 5, 3, 4, 5]

/-- The number of M cycles (R220). -/
def mCycles (x : Instr) (s : State) : Nat := (tStates x s).length

/-- The execution time in nanoseconds: T states times the clock period (R221). -/
def timeNs (x : Instr) (s : State) : Nat := (tStates x s).sum * (1000000000 / Config.clockHz)

end Sys2Proof.Machine
end

