-- ==== Sys2Proof/Safety.lean ====
section
/-!
DEFINITION. The terms in which claims about runs are stated: which addresses hold storage, what a boundary
samples, the invariant of the machine, and the iterations of a repeating instruction.
-/

namespace Sys2Proof.Machine

/-- An address that holds storage, so that a read of it is no draw (20_memory.md R53). -/
abbrev State.Present (s : State) (a : Word) : Prop := s.kindAt a ≠ .absent

/-- An address that keeps what is written to it (R54). -/
abbrev State.Writable (s : State) (a : Word) : Prop := s.kindAt a = .ram

/-- A boundary at which the next instruction is fetched (60_exceptions.md R183): the run does not end here, no
NMI is pending and no maskable request is seen. -/
abbrev State.Fetches (s : State) : Prop :=
  s.runEnded = false ∧ s.nmiPending = false ∧ s.maskableSeen = false

/-- The invariant of the machine: memory has its canonical form, so that equal memories are equal data. -/
abbrev State.Inv (s : State) : Prop := Memory.wf s.mem

/-- A safe step: it goes on. The other outcomes are the end of a run and the refusals the spec orders. -/
abbrev State.StepsOn (s : State) : Prop :=
  match step s with
  | .next _ => True
  | .fault _ => False
  | .refused _ => False

/-- `s` with the registers that the source names and no admitted instruction touches (10_state.md R14, R32)
taken from `u`. -/
def State.withNamedOnly (s u : State) : State :=
  { s with
    a' := u.a', f' := u.f', b' := u.b', c' := u.c', d' := u.d', e' := u.e', h' := u.h', l' := u.l'
    ix := u.ix, iy := u.iy, i := u.i, r := u.r, im := u.im }

/-- `t` is `s` after `PC <- Pop16()` (20_memory.md R51, 40_return_restart.md R110): the low byte of PC from SP, the
high byte from SP+1, SP two higher, and nothing else changed but the counter of free values. -/
def State.PopsPc (s t : State) : Prop :=
  t = { s with pc := t.pc, sp := s.sp + 2#16, draws := t.draws } ∧
  (s.Present s.sp → lo t.pc = s.byteAt s.sp) ∧
  (s.Present (s.sp + 1#16) → hi t.pc = s.byteAt (s.sp + 1#16)) ∧
  ∀ x, t.byteAt x = s.byteAt x

/-- `t` is `s` after `Push16(PC)` and a jump to `target` (R52, R116, R184): the high byte of PC at SP-1, the low byte
at SP-2, SP two lower, and every other byte and every other part of the state as before. -/
def State.CallsFixed (s t : State) (target : Word) : Prop :=
  t = { s with pc := target, sp := s.sp - 2#16, mem := t.mem } ∧
  t.byteAt (s.sp - 1#16) = (if s.Writable (s.sp - 1#16) then hi s.pc else s.byteAt (s.sp - 1#16)) ∧
  t.byteAt (s.sp - 2#16) = (if s.Writable (s.sp - 2#16) then lo s.pc else s.byteAt (s.sp - 2#16)) ∧
  ∀ x, x ≠ s.sp - 1#16 → x ≠ s.sp - 2#16 → t.byteAt x = s.byteAt x

/-- The flags after a block transfer from `s` (10_state.md R29): Z says whether the new B is zero, N is set, C is
as before, and nothing is said of S, H, P/V (R38) and the unused bits (R39). -/
def State.BlockFlags (s t : State) : Prop :=
  t.f.z = decide (s.b - 1#8 = 0#8) ∧ t.f.n = true ∧ t.f.c = s.f.c

/-- `t` is `s` after one block input that leaves HL at `hl'` and PC at `pc'` (41_input.md R136). -/
def State.TransfersIn (s t : State) (hl' pc' : Word) : Prop :=
  t = { s with
    b := s.b - 1#8, h := t.h, l := t.l, f := t.f, pc := pc', mem := t.mem
    portBytes := s.portBytes.tail, draws := t.draws
    history := s.history ++ [.ioRead (cat s.b s.c) (s.portByte (cat s.b s.c))] } ∧
  t.hl = hl' ∧ s.BlockFlags t ∧
  t.byteAt s.hl = (if s.Writable s.hl then s.portByte (cat s.b s.c) else s.byteAt s.hl) ∧
  ∀ x, x ≠ s.hl → t.byteAt x = s.byteAt x

/-- `t` is `s` after one block output of the byte `v` that leaves HL at `hl'` and PC at `pc'` (42_output.md R156);
where HL holds storage, `v` is the byte there. -/
def State.TransfersOut (s t : State) (v : Byte) (hl' pc' : Word) : Prop :=
  t = { s with
    b := s.b - 1#8, h := t.h, l := t.l, f := t.f, pc := pc', draws := t.draws
    history := s.history ++ [.ioWrite (cat (s.b - 1#8) s.c) v] } ∧
  (s.Present s.hl → v = s.byteAt s.hl) ∧
  t.hl = hl' ∧ s.BlockFlags t ∧
  ∀ x, t.byteAt x = s.byteAt x

/-- PC after an iteration of a repeat (R133, R153): past the instruction where B has reached zero, back at it
otherwise. -/
def State.repeatPc (s : State) : Word := if s.b - 1#8 = 0#8 then s.pc else s.pc - 2#16

/-- Nothing but instructions happens in the coming steps: the run has no end address, no request is pending and the
environment has no input left (R183). -/
abbrev State.Quiet (s : State) : Prop :=
  s.endPc = none ∧ s.nmiPending = false ∧ s.maskableSeen = false ∧ s.inputs = []

/-- The four instructions that repeat (41_input.md R133, R135; 42_output.md R153, R155). -/
def repeats : Instr → Bool
  | .ret => false
  | .retCc _ => false
  | .reti => false
  | .retn => false
  | .rst _ => false
  | .inAN _ => false
  | .inRC _ => false
  | .ini => false
  | .inir => true
  | .ind => false
  | .indr => true
  | .outNA _ => false
  | .outCR _ => false
  | .outi => false
  | .otir => true
  | .outd => false
  | .otdr => true

/-- The number of iterations of a repeat that starts with this B: B, or 256 where B is zero (R133, R153). -/
def iterations (b : Byte) : Nat := if b = 0#8 then 256 else b.toNat

/-- One instruction executed `k` times from the state at its address, its two bytes fetched anew before each
execution, and the T states it took (R220): what a repeat does when nothing overwrites or interrupts it. -/
def iterate (x : Instr) : Nat → State → Host.Outcome (State × Nat) Fault Refusal
  | 0, s => .next (s, 0)
  | k + 1, s =>
    match exec x { s with pc := s.pc + 2#16 } with
    | .fault r => .fault r
    | .refused r => .refused r
    | .next t =>
      match iterate x k t with
      | .next (u, n) => .next (u, (tStates x s).sum + n)
      | .fault r => .fault r
      | .refused r => .refused r

end Sys2Proof.Machine
end

