-- ==== Sys2Proof/Certificates/Slice0/Obligations.lean ====
section
/-!
DEFINITION. The statements for the provers. Each docstring names the rules of spec/ that its statement formalises.
-/

open Sys2Proof Sys2Proof.Machine

/-! ### Encoding -/

/-- O1. 30_encoding.md R82 to R86, R88, R90: every well-formed instruction, with every operand, is decoded from its
own bytes, whatever follows them. Some of those bytes are PRESUMED (log entry 13). -/
def Obligations.DecodeEncodeRoundTrip : Prop :=
  ∀ (x : Instr) (rest : List Byte), x.wellFormed = true → decode (encode x ++ rest) = .instr x rest

/-- O2. R81, R90: what the decoder accepts is a well-formed instruction, and the bytes it took are that instruction's. -/
def Obligations.DecodedBytesAreTheEncoding : Prop :=
  ∀ (bytes : List Byte) (x : Instr) (rest : List Byte),
    decode bytes = .instr x rest → x.wellFormed = true ∧ bytes = encode x ++ rest

/-- O3. Words of the spec's tables (95_test_vectors.md 2.1) and what they stand for; F8, ED 78, D3, ED 51 and ED A3 are
PRESUMED (log entry 13). -/
def Obligations.SpecWordsDecode : Prop :=
  decode [0xC9#8] = .instr .ret [] ∧
  decode [0xF8#8] = .instr (.retCc .m) [] ∧
  decode [0xDF#8] = .instr (.rst 0x18#8) [] ∧
  decode [0xED#8, 0x4D#8] = .instr .reti [] ∧
  decode [0xDB#8, 0x5A#8] = .instr (.inAN 0x5A#8) [] ∧
  decode [0xED#8, 0x78#8] = .instr (.inRC .a) [] ∧
  decode [0xED#8, 0xBA#8] = .instr .indr [] ∧
  decode [0xD3#8, 0x5A#8] = .instr (.outNA 0x5A#8) [] ∧
  decode [0xED#8, 0x51#8] = .instr (.outCR .d) [] ∧
  decode [0xED#8, 0xA3#8] = .instr .outi []

/-- O4. R80, its sentence on the length: the first byte alone decides it; EDH, DBH and D3H announce a second byte. -/
def Obligations.FirstByteDecidesLength : Prop :=
  (∀ (b0 : Byte) (bytes : List Byte) (x : Instr) (rest : List Byte), decode (b0 :: bytes) = .instr x rest →
    bytes.length = rest.length + (if b0 = 0xED#8 ∨ b0 = 0xDB#8 ∨ b0 = 0xD3#8 then 1 else 0)) ∧
  (∀ b0 : Byte, decode [b0] = .truncated ↔ b0 = 0xED#8 ∨ b0 = 0xDB#8 ∨ b0 = 0xD3#8)

/-- O5. R92: at a boundary where the next instruction is fetched, bytes that R81 does not decode are refused by name,
and never executed, skipped or faulted on; 236 first bytes and 232 second bytes after EDH are such. The byte after PC
is asked to be present only where the first byte announces it. -/
def Obligations.UndecodedBytesAreRefused : Prop :=
  (∀ (s : State) (bytes : List Byte), s.Fetches → s.Present s.pc →
    (decode [s.byteAt s.pc] = .truncated → s.Present (s.pc + 1#16)) →
    decode [s.byteAt s.pc, s.byteAt (s.pc + 1#16)] = .unspecified bytes →
    step s = .refused (.unspecifiedEncoding bytes)) ∧
  ((List.range 256).filter fun k => decode [BitVec.ofNat 8 k, 0#8] = .unspecified [BitVec.ofNat 8 k]).length = 236 ∧
  ((List.range 256).filter fun k =>
    decode [0xED#8, BitVec.ofNat 8 k] = .unspecified [0xED#8, BitVec.ofNat 8 k]).length = 232

/-- O6. R91: the field value 110 of IN r,(C) and OUT (C),r is refused. -/
def Obligations.RegisterCode110IsRefused : Prop :=
  ∀ (s : State) (v : Byte), s.Fetches → s.Present s.pc → s.Present (s.pc + 1#16) →
    v = 0x70#8 ∨ v = 0x71#8 → s.byteAt s.pc = 0xED#8 → s.byteAt (s.pc + 1#16) = v →
    step s = .refused (.unspecifiedEncoding [0xED#8, v])

/-! ### The step -/

/-- O7. R81, R16, R183: at a boundary where the next instruction is fetched, the step is the meaning of the decoded
instruction, from the state with PC past its bytes; then the environment's inputs are latched (log entry 9). -/
def Obligations.StepRunsTheDecodedInstruction : Prop :=
  ∀ (s : State) (x : Instr) (rest : List Byte), s.Fetches → s.Present s.pc →
    (x.size = 2 → s.Present (s.pc + 1#16)) →
    decode [s.byteAt s.pc, s.byteAt (s.pc + 1#16)] = .instr x rest →
    step s = afterStep (exec x { s with pc := s.pc + BitVec.ofNat 16 x.size })

/-- O8. R184: the NMI entry is the whole step; PC is pushed, PC is 0066H, IFF1 is 0, IFF2 is kept, the request is
consumed, and nothing else changes; then the environment's inputs are latched (the latching is log entry 9's choice).
That IFF1 is cleared and IFF2 kept is general knowledge in the spec itself (G11, log entry 12). -/
def Obligations.NmiEntryIsTaken : Prop :=
  ∀ s : State, s.runEnded = false → s.nmiPending = true → s.iff1 = s.iff2 →
    ∃ t : State, s.CallsFixed t 0x0066#16 ∧
      step s = .next ({ t with iff1 := false, nmiPending := false } : State).latchInputs

/-- O9. R185: an NMI entry with IFF1 different from IFF2 is refused. -/
def Obligations.NestedNmiIsRefused : Prop :=
  ∀ s : State, s.runEnded = false → s.nmiPending = true → s.iff1 ≠ s.iff2 → step s = .refused .nestedNmi

/-- O10. R186: a maskable request while IFF1 = 1 is refused; while IFF1 = 0 the CPU does not see the devices, and a
request stays with its device. The devices are the model's form of R189 (log entry 11). -/
def Obligations.MaskableRequestsNeedIff1 : Prop :=
  (∀ s : State, s.runEnded = false → s.nmiPending = false → s.iff1 = true → Chain.requests s.chain = true →
    step s = .refused .maskableInterrupt) ∧
  (∀ (s t : State) (ch : Chain), s.iff1 = false → step s = .next t →
    ∃ ch' : Chain, step { s with chain := ch } = .next { t with chain := ch' }) ∧
  (∀ (s t : State) (k : Nat), step s = .next t →
    s.chain[k]? = some .requesting → t.chain[k]? = some .requesting)

/-- O11. R213: a run ends where PC = `end_pc` at a boundary, before anything is fetched; R180: no step stops with a
fault anywhere else. That the end of a run is a step which answers a fault is the model's choice (log entry 18). -/
def Obligations.RunEndsExactlyAtEndPc : Prop :=
  ∀ s : State, (∃ r : Fault, step s = .fault r) ↔ s.endPc = some s.pc

/-- O12. The model's choice (log entry 4): memory has its canonical form after reset. -/
def Obligations.ResetMemoryIsCanonical : Prop := State.reset.Inv

/-- O13. R37: what reset leaves, every field but the model's own counter of free values. Only the empty history and
the clear request latch are the spec's. PC, IFF1, IFF2, the mode, I and R are the values R37 lists as general knowledge
(log entry 2); the other registers and the flags are log entry 3's; memory is log entry 4's, the memory map log entry
5's, the ports log entry 6's, the inputs log entry 9's, the chain log entry 11's and `end_pc` log entry 18's. -/
def Obligations.ResetValues : Prop :=
  State.reset.nmiPending = false ∧ State.reset.history = [] ∧
  State.reset.pc = 0x0000#16 ∧ State.reset.iff1 = false ∧ State.reset.iff2 = false ∧ State.reset.im = .mode0 ∧
  State.reset.i = 0x00#8 ∧ State.reset.r = 0x00#8 ∧ State.reset.sp = 0x0000#16 ∧
  (∀ x : Reg, State.reset.getReg x = 0x00#8) ∧ State.reset.f.toByte = 0x00#8 ∧
  State.reset.a' = 0x00#8 ∧ State.reset.f'.toByte = 0x00#8 ∧ State.reset.b' = 0x00#8 ∧ State.reset.c' = 0x00#8 ∧
  State.reset.d' = 0x00#8 ∧ State.reset.e' = 0x00#8 ∧ State.reset.h' = 0x00#8 ∧ State.reset.l' = 0x00#8 ∧
  State.reset.ix = 0x0000#16 ∧ State.reset.iy = 0x0000#16 ∧
  (∀ x : Word, State.reset.byteAt x = 0x00#8) ∧ (∀ x : Word, State.reset.kindAt x = .ram) ∧
  State.reset.portBytes = [] ∧ State.reset.inputs = [] ∧ State.reset.chain = [] ∧ State.reset.endPc = none

/-- O14. Every step keeps the canonical form of memory, from every state that has it (R33, R54). -/
def Obligations.StepKeepsMemoryCanonical : Prop :=
  ∀ s t : State, s.Inv → step s = .next t → t.Inv

/-- O15. R180: no instruction raises: every meaning answers a next state, from every state and with every operand; and
the one control transfer that is no instruction is the interrupt's. That the inputs are latched after the meaning is
log entry 9's choice. -/
def Obligations.NoInstructionRaises : Prop :=
  (∀ (x : Instr) (s : State), ∃ t : State, exec x s = .next t) ∧
  ∀ s t : State, step s = .next t → s.nmiPending = true ∨
    ∃ (x : Instr) (u v : State), fetchInstr s = .instr x u ∧ exec x u = .next v ∧ t = v.latchInputs

/-- O16. R14: no step reads or writes the registers that the source only names. Two states that differ in them step to
states that differ in them alone, each with its own values. -/
def Obligations.NamedOnlyRegistersAreUntouched : Prop :=
  ∀ s u t : State, step s = .next t → step (s.withNamedOnly u) = .next (t.withNamedOnly u)

/-- O17. R22: no step of the admitted subset changes the carry flag. -/
def Obligations.CarryFlagNeverChanges : Prop :=
  ∀ s t : State, step s = .next t → t.f.c = s.f.c

/-- O18. R30, R31, R182: IFF2 is written by nothing; IFF1 changes only by RETI and RETN, which copy IFF2, and by NMI
entry, which clears it (the last by general knowledge, G11, log entry 12). -/
def Obligations.InterruptFlipFlopsChangeOnlyByTheirRules : Prop :=
  ∀ s t : State, step s = .next t →
    t.iff2 = s.iff2 ∧
    (t.iff1 = s.iff1 ∨ (s.nmiPending = true ∧ t.iff1 = false) ∨
      (t.iff1 = s.iff2 ∧ ∃ u : State, fetchInstr s = .instr .reti u ∨ fetchInstr s = .instr .retn u))

/-- O19. R36, R56, R67: a step appends at most one event to the history and never drops, changes or reorders one. -/
def Obligations.HistoryGrowsByAtMostOneEvent : Prop :=
  ∀ s t : State, step s = .next t → ∃ es : List Event, t.history = s.history ++ es ∧ es.length ≤ 1

/-- O20. R33, R54: a step changes no byte but those at SP-1, SP-2 and HL, and only where the memory map says ram; the
memory map itself stays. -/
def Obligations.MemoryChangesOnlyAtStackOrHl : Prop :=
  ∀ s t : State, step s = .next t →
    t.memMap = s.memMap ∧
    ∀ x : Word, t.byteAt x ≠ s.byteAt x →
      s.Writable x ∧ (x = s.sp - 1#16 ∨ x = s.sp - 2#16 ∨ x = s.hl)

/-- O21. R18: the input and output instructions neither write SP nor read it. -/
def Obligations.PortInstructionsIgnoreSp : Prop :=
  ∀ (x : Instr) (s t : State) (w : Word),
    x ≠ .ret → (∀ cc : Cond, x ≠ .retCc cc) → x ≠ .reti → x ≠ .retn → (∀ p : Byte, x ≠ .rst p) →
    exec x s = .next t → t.sp = s.sp ∧ exec x { s with sp := w } = .next { t with sp := w }

/-- O55. R182, R183, R35, in the model's form (log entries 9 and 11): what the environment does during a step is seen at
the next boundary and not before. Whatever the input list holds, the step comes to the same state but for what it
latches at its end: with no entry left, no request; with an entry, the request latch holds its `nmi_req`, its devices
have raised their requests in the chain that the step left, and the entry is used up. A step leaves the chain as it was,
but for RETI, which ends a service. -/
def Obligations.RequestsAreSampledAtTheNextBoundary : Prop :=
  ∀ s t : State, step s = .next t → ∃ ch : Chain,
    ((s.nmiPending = false ∧ ∃ u : State, fetchInstr s = .instr .reti u) → ch = Chain.retiDone s.chain) ∧
    (¬ (s.nmiPending = false ∧ ∃ u : State, fetchInstr s = .instr .reti u) → ch = s.chain) ∧
    step { s with inputs := [] } = .next { t with inputs := [], nmiPending := false, chain := ch } ∧
    (∀ (x : PlatformInput) (rest : List PlatformInput), step { s with inputs := x :: rest } =
      .next { t with inputs := rest, nmiPending := x.nmiReq, chain := Chain.raise ch x.intReqs }) ∧
    (s.inputs = [] → t.inputs = [] ∧ t.nmiPending = false ∧ t.chain = ch) ∧
    (∀ (x : PlatformInput) (rest : List PlatformInput), s.inputs = x :: rest →
      t.inputs = rest ∧ t.nmiPending = x.nmiReq ∧ t.chain = Chain.raise ch x.intReqs)

/-- O56. R35 b and c, in the model's form (log entry 11): when devices raise requests, the idle ones among them become
requesting, and no other device changes. -/
def Obligations.IdleDevicesRaiseRequests : Prop :=
  ∀ (ch : Chain) (ks : List Nat) (k : Nat), (Chain.raise ch ks)[k]? =
    if k ∈ ks ∧ ch[k]? = some .idle then some .requesting else ch[k]?

/-! ### Memory and stack -/

/-- O22. R54: a byte written to ram is what every later read of the address returns, an instruction fetch included,
until the next write to it; other addresses keep theirs; a write to rom or to an absent address changes nothing. -/
def Obligations.WrittenByteIsReadUntilOverwritten : Prop :=
  ∀ (s : State) (x : Word) (v : Byte),
    (s.Writable x → ∀ ws : List (Word × Byte), (∀ w ∈ ws, w.1 ≠ x) →
      ((ws.foldl (fun (u : State) w => u.memWrite w.1 w.2) (s.memWrite x v)).memRead x).1 = v ∧
      (s.pc = x → (ws.foldl (fun (u : State) w => u.memWrite w.1 w.2) (s.memWrite x v)).fetchByte.1 = v)) ∧
    (∀ y : Word, y ≠ x → (s.memWrite x v).byteAt y = s.byteAt y) ∧
    (¬ s.Writable x → s.memWrite x v = s)

/-- O23. R53: a read returns the byte stored, has no effect on the state and is not recorded; at an absent address the
byte is a draw, which advances the model's own counter and nothing else (log entries 7 and 8). -/
def Obligations.ReadReturnsStoredByteOrDraw : Prop :=
  ∀ (s : State) (x : Word),
    (s.Present x → s.memRead x = (s.byteAt x, s)) ∧
    (¬ s.Present x → s.memRead x = (Config.freeByte s.draws, { s with draws := s.draws + 1 }))

/-- O24. R51, R52 (95_test_vectors.md 2.14): popping after pushing gives the word back and restores SP, where the stack
is in ram; the two bytes stay in memory below SP. -/
def Obligations.PopAfterPushGivesTheWordBack : Prop :=
  ∀ (s : State) (w : Word), s.Writable (s.sp - 1#16) → s.Writable (s.sp - 2#16) →
    (s.push16 w).pop16 = (w, { s with mem := (s.push16 w).mem }) ∧
    (s.push16 w).byteAt (s.sp - 1#16) = hi w ∧ (s.push16 w).byteAt (s.sp - 2#16) = lo w

/-- O25. R19, which the spec marks as general knowledge and its decision D3 (log entry 15): the stack at both ends of
the address space. -/
def Obligations.StackWrapsAtBothEnds : Prop :=
  (∀ s : State, s.sp = 0xFFFF#16 → s.Present 0xFFFF#16 → s.Present 0x0000#16 →
    s.pop16 = (cat (s.byteAt 0x0000#16) (s.byteAt 0xFFFF#16), { s with sp := 0x0001#16 })) ∧
  (∀ (s : State) (w : Word), s.sp = 0x0001#16 → s.Writable 0x0000#16 → s.Writable 0xFFFF#16 →
    (s.push16 w).sp = 0xFFFF#16 ∧ (s.push16 w).byteAt 0x0000#16 = hi w ∧ (s.push16 w).byteAt 0xFFFF#16 = lo w)

/-! ### Returns and restart -/

/-- O26. R110: RET, from every state. -/
def Obligations.RetPopsPc : Prop :=
  ∀ s : State, ∃ t : State, exec .ret s = .next t ∧ s.PopsPc t

/-- O27. R111: RET cc does what RET does if the condition holds, and nothing at all if not. -/
def Obligations.RetCcPopsPcOnlyIfTrue : Prop :=
  ∀ (cc : Cond) (s : State), ∃ t : State, exec (.retCc cc) s = .next t ∧
    (condHolds cc s.f = true → s.PopsPc t) ∧ (condHolds cc s.f = false → t = s)

/-- O28. R113: RETI pops PC, copies IFF2 into IFF1 and signals the devices; what the devices do then is the model's
form of R189 (log entry 11). -/
def Obligations.RetiPopsCopiesAndSignals : Prop :=
  ∀ s : State, ∃ t : State, s.PopsPc t ∧
    exec .reti s =
      .next { t with iff1 := s.iff2, history := s.history ++ [.retiDone], chain := Chain.retiDone s.chain }

/-- O29. R114: RETN pops PC and copies IFF2 into IFF1. That it does not signal is marked in R114 as the spec's own
inference. -/
def Obligations.RetnPopsAndCopies : Prop :=
  ∀ s : State, ∃ t : State, s.PopsPc t ∧ exec .retn s = .next { t with iff1 := s.iff2 }

/-- O30. R115, an inference the spec marks as its own: RETI and RETN do the same but for the signal, and differ in the
second opcode byte. What the devices do on the signal is log entry 11's. -/
def Obligations.RetiAndRetnDifferInTheSignal : Prop :=
  (∀ s : State, ∃ t : State, exec .retn s = .next t ∧
    exec .reti s = .next { t with history := t.history ++ [.retiDone], chain := Chain.retiDone t.chain } ∧
    t.history = s.history ∧ t.chain = s.chain ∧ t.iff1 = s.iff2) ∧
  encode .reti = [0xED#8, 0x4D#8] ∧ encode .retn = [0xED#8, 0x45#8]

/-- O31. R116: RST p pushes PC and goes to `00H ++ p`; no flag changes (a clause of general knowledge, G21, log entry
16). -/
def Obligations.RstPushesPcAndJumps : Prop :=
  ∀ (p : Byte) (s : State), ∃ t : State, exec (.rst p) s = .next t ∧ s.CallsFixed t (cat 0x00#8 p)

/-- O32. R110, R112, R116: with the stack in ram, RET right after RST p comes back behind the RST with SP restored, and
all it leaves behind are the two bytes below SP (the flags by log entry 16). -/
def Obligations.RetComesBackFromRst : Prop :=
  ∀ (p : Byte) (s : State), s.Writable (s.sp - 1#16) → s.Writable (s.sp - 2#16) →
    ∃ t u : State, exec (.rst p) s = .next t ∧ exec .ret t = .next u ∧ u = { s with mem := u.mem } ∧
      ∀ x : Word, x ≠ s.sp - 1#16 → x ≠ s.sp - 2#16 → u.byteAt x = s.byteAt x

/-- O33. R114, R137, R184 (95_test_vectors.md S4): with the stack in ram, RETN right after an NMI entry comes back to
the deferred instruction with SP, IFF1 and every register as they were (R184 by log entry 12). -/
def Obligations.RetnComesBackFromNmi : Prop :=
  ∀ s : State, s.runEnded = false → s.nmiPending = true → s.iff1 = s.iff2 →
    s.Writable (s.sp - 1#16) → s.Writable (s.sp - 2#16) →
    ∃ t u : State, step s = .next t ∧ exec .retn t = .next u ∧
      u = { s with mem := u.mem, inputs := u.inputs, chain := u.chain, nmiPending := u.nmiPending } ∧
      ∀ x : Word, x ≠ s.sp - 1#16 → x ≠ s.sp - 2#16 → u.byteAt x = s.byteAt x

/-! ### Input -/

/-- O34. R130: IN A,(n), with the old A on the high address lines and every flag kept. That the byte comes from the head
of `portBytes`, which the read uses up, is log entry 6's form of `IoEnv`. -/
def Obligations.InAnReadsThePort : Prop :=
  ∀ (n : Byte) (s : State), ∃ t : State, exec (.inAN n) s = .next t ∧
    t = { s with
      a := s.portByte (cat s.a n), portBytes := s.portBytes.tail, draws := t.draws
      history := s.history ++ [.ioRead (cat s.a n) (s.portByte (cat s.a n))] } ∧
    ∀ x : Word, t.byteAt x = s.byteAt x

/-- O35. R131: IN r,(C), with port and high lines from before the instruction, for every register and byte. That the
byte comes from the head of `portBytes`, which the read uses up, is log entry 6's form of `IoEnv`. -/
def Obligations.InRcReadsThePortAndSetsFlags : Prop :=
  ∀ (r : Reg) (s : State), ∃ t : State, exec (.inRC r) s = .next t ∧
    ∃ d : Byte, d = s.portByte (cat s.b s.c) ∧
    t.getReg r = d ∧ (∀ y : Reg, y ≠ r → t.getReg y = s.getReg y) ∧
    t.f.s = d.getLsbD 7 ∧ t.f.z = decide (d = 0x00#8) ∧ t.f.h = false ∧ t.f.n = false ∧ t.f.c = s.f.c ∧
    t.f.pv = !(d.getLsbD 0 ^^ d.getLsbD 1 ^^ d.getLsbD 2 ^^ d.getLsbD 3 ^^
      d.getLsbD 4 ^^ d.getLsbD 5 ^^ d.getLsbD 6 ^^ d.getLsbD 7) ∧
    t = { s with
      a := t.a, b := t.b, c := t.c, d := t.d, e := t.e, h := t.h, l := t.l, f := t.f
      portBytes := s.portBytes.tail, draws := t.draws
      history := s.history ++ [.ioRead (cat s.b s.c) d] } ∧
    ∀ x : Word, t.byteAt x = s.byteAt x

/-- O36. R132: INI. That the read uses up the head of `portBytes` is log entry 6's form of `IoEnv`. -/
def Obligations.IniTransfersOneByteIn : Prop :=
  ∀ s : State, ∃ t : State, exec .ini s = .next t ∧ s.TransfersIn t (s.hl + 1#16) s.pc

/-- O37. R133: one iteration of INIR (the flags of an iteration that does not end it by D12, log entry 20). That the
read uses up the head of `portBytes` is log entry 6's form of `IoEnv`. -/
def Obligations.InirTransfersOneByteInAndRepeats : Prop :=
  ∀ s : State, ∃ t : State, exec .inir s = .next t ∧ s.TransfersIn t (s.hl + 1#16) s.repeatPc

/-- O38. R134: IND. That the read uses up the head of `portBytes` is log entry 6's form of `IoEnv`. -/
def Obligations.IndTransfersOneByteIn : Prop :=
  ∀ s : State, ∃ t : State, exec .ind s = .next t ∧ s.TransfersIn t (s.hl - 1#16) s.pc

/-- O39. R135: one iteration of INDR (the flags of an iteration that does not end it by D12, log entry 20). That the
read uses up the head of `portBytes` is log entry 6's form of `IoEnv`. -/
def Obligations.IndrTransfersOneByteInAndRepeats : Prop :=
  ∀ s : State, ∃ t : State, exec .indr s = .next t ∧ s.TransfersIn t (s.hl - 1#16) s.repeatPc

/-! ### Output -/

/-- O40. R150: OUT (n),A; nothing changes but the history. -/
def Obligations.OutNaWritesThePort : Prop :=
  ∀ (n : Byte) (s : State), ∃ t : State, exec (.outNA n) s = .next t ∧
    t = { s with history := s.history ++ [.ioWrite (cat s.a n) s.a] } ∧ ∀ x : Word, t.byteAt x = s.byteAt x

/-- O41. R151: OUT (C),r; nothing changes but the history. -/
def Obligations.OutCrWritesThePort : Prop :=
  ∀ (r : Reg) (s : State), ∃ t : State, exec (.outCR r) s = .next t ∧
    t = { s with history := s.history ++ [.ioWrite (cat s.b s.c) (s.getReg r)] } ∧
    ∀ x : Word, t.byteAt x = s.byteAt x

/-- O42. R152: OUTI, with the decremented B on the high address lines. -/
def Obligations.OutiTransfersOneByteOut : Prop :=
  ∀ s : State, ∃ (t : State) (v : Byte), exec .outi s = .next t ∧ s.TransfersOut t v (s.hl + 1#16) s.pc

/-- O43. R153: one iteration of OTIR (the flags of an iteration that does not end it by D12, log entry 20). -/
def Obligations.OtirTransfersOneByteOutAndRepeats : Prop :=
  ∀ s : State, ∃ (t : State) (v : Byte), exec .otir s = .next t ∧ s.TransfersOut t v (s.hl + 1#16) s.repeatPc

/-- O44. R154: OUTD. -/
def Obligations.OutdTransfersOneByteOut : Prop :=
  ∀ s : State, ∃ (t : State) (v : Byte), exec .outd s = .next t ∧ s.TransfersOut t v (s.hl - 1#16) s.pc

/-- O45. R155: one iteration of OTDR (the flags of an iteration that does not end it by D12, log entry 20). -/
def Obligations.OtdrTransfersOneByteOutAndRepeats : Prop :=
  ∀ s : State, ∃ (t : State) (v : Byte), exec .otdr s = .next t ∧ s.TransfersOut t v (s.hl - 1#16) s.repeatPc

/-! ### Whole repeats -/

/-- O46. R133, R135, R153, R155, R221: a repeat that nothing overwrites or interrupts takes B iterations, 256 where B
is zero; it ends behind the instruction with B zero and Z and N set, after one I/O event and one step of HL an
iteration, and after 21(n-1) + 16 T states (a sentence that R221 marks as the spec's own inference; the flags before the
end are log entry 20's). Until then PC is back at the instruction. -/
def Obligations.RepeatTakesAsManyIterationsAsB : Prop :=
  ∀ (x : Instr) (s : State), repeats x = true →
    (∃ t : State, iterate x (iterations s.b) s = .next (t, 21 * (iterations s.b - 1) + 16) ∧
      t.b = 0x00#8 ∧ t.c = s.c ∧ t.f.z = true ∧ t.f.n = true ∧ t.f.c = s.f.c ∧ t.pc = s.pc + 2#16 ∧ t.sp = s.sp ∧
      t.hl = (if x = .inir ∨ x = .otir then s.hl + BitVec.ofNat 16 (iterations s.b)
        else s.hl - BitVec.ofNat 16 (iterations s.b)) ∧
      t.history.length = s.history.length + iterations s.b) ∧
    ∀ k : Nat, k < iterations s.b → ∃ (u : State) (m : Nat), iterate x k s = .next (u, m) ∧
      u.pc = s.pc ∧ u.b = s.b - BitVec.ofNat 8 k

/-- O47. R153, R64, R137, R183: steps of the machine from an OTIR in memory. While nothing else happens, exactly B steps
(256 where B is zero) send the bytes at HL, HL+1, … to port C with B-1, B-2, …, 0 on the high lines, and leave memory,
SP and the other registers alone. That OTIR is ED B3 is PRESUMED (G7, log entry 13). -/
def Obligations.OtirStepsSendTheBlock : Prop :=
  ∀ s : State, s.Quiet → (∀ x : Word, s.Present x) →
    s.byteAt s.pc = 0xED#8 → s.byteAt (s.pc + 1#16) = 0xB3#8 →
    ∃ t : State, Host.Core.run Sys2Proof.core (iterations s.b) s = .next t ∧
      t = { s with
        b := 0x00#8, h := t.h, l := t.l, f := t.f, pc := s.pc + 2#16, draws := t.draws
        history := s.history ++ (List.range (iterations s.b)).map fun k =>
          .ioWrite (cat (s.b - 1#8 - BitVec.ofNat 8 k) s.c) (s.byteAt (s.hl + BitVec.ofNat 16 k)) } ∧
      t.hl = s.hl + BitVec.ofNat 16 (iterations s.b) ∧ t.f.z = true ∧ t.f.n = true ∧ t.f.c = s.f.c

/-- O48. R133, R64, R137, R183: steps of the machine from an INIR in ram that does not store over itself. While nothing
else happens and the port has the bytes ready, exactly B steps (256 where B is zero) store them at HL, HL+1, … in order,
reading with B, B-1, …, 1 on the high lines, and leave every other byte alone. That the bytes are those of `portBytes`,
in order, and are used up is log entry 6's form of `IoEnv`. -/
def Obligations.InirStepsStoreTheBlock : Prop :=
  ∀ s : State, s.Quiet → (∀ x : Word, s.Writable x) →
    s.byteAt s.pc = 0xED#8 → s.byteAt (s.pc + 1#16) = 0xB2#8 →
    iterations s.b ≤ s.portBytes.length →
    (∀ k : Nat, k < iterations s.b → s.hl + BitVec.ofNat 16 k ≠ s.pc ∧ s.hl + BitVec.ofNat 16 k ≠ s.pc + 1#16) →
    ∃ t : State, Host.Core.run Sys2Proof.core (iterations s.b) s = .next t ∧
      t = { s with
        b := 0x00#8, h := t.h, l := t.l, f := t.f, pc := s.pc + 2#16, mem := t.mem, draws := t.draws
        portBytes := s.portBytes.drop (iterations s.b)
        history := s.history ++ (List.range (iterations s.b)).map fun k =>
          .ioRead (cat (s.b - BitVec.ofNat 8 k) s.c) (s.portBytes.getD k 0#8) } ∧
      t.hl = s.hl + BitVec.ofNat 16 (iterations s.b) ∧ t.f.z = true ∧ t.f.n = true ∧ t.f.c = s.f.c ∧
      (∀ k : Nat, k < iterations s.b → t.byteAt (s.hl + BitVec.ofNat 16 k) = s.portBytes.getD k 0#8) ∧
      ∀ x : Word, (∀ k : Nat, k < iterations s.b → x ≠ s.hl + BitVec.ofNat 16 k) → t.byteAt x = s.byteAt x

/-- O49. R64, R68 c, R216: an INIR whose transfer stores over its own second byte is decoded anew from the stored byte
at the next step; where that byte makes no instruction, the next step is refused. The byte is the head of `portBytes`
(log entry 6). -/
def Obligations.InirOverItselfIsDecodedAnew : Prop :=
  ∀ (s : State) (v : Byte) (rest : List Byte), s.Quiet → (∀ x : Word, s.Writable x) →
    s.byteAt s.pc = 0xED#8 → s.byteAt (s.pc + 1#16) = 0xB2#8 → s.hl = s.pc + 1#16 → s.b ≠ 0x01#8 →
    s.portBytes = v :: rest →
    ∃ t : State, step s = .next t ∧ t.pc = s.pc ∧ t.byteAt s.pc = 0xED#8 ∧ t.byteAt (s.pc + 1#16) = v ∧
      (∀ x : Instr, decode [0xED#8, v] = .instr x [] →
        step t = afterStep (exec x { t with pc := s.pc + 2#16 })) ∧
      (decode [0xED#8, v] = .unspecified [0xED#8, v] → step t = .refused (.unspecifiedEncoding [0xED#8, v]))

/-! ### Flags, conditions, devices, timing -/

/-- O50. R28: the condition table, in the form the spec derives from it: `cc[2:1]` picks the flag (00 Z, 01 C, 10 P/V, 11 S), and the condition holds when
that flag equals `cc[0]`. -/
def Obligations.ConditionTable : Prop :=
  (∀ (cc : Cond) (f : Flags), condHolds cc f =
    ((if cc.code.extractLsb' 1 2 = 0b00#2 then f.z
      else if cc.code.extractLsb' 1 2 = 0b01#2 then f.c
      else if cc.code.extractLsb' 1 2 = 0b10#2 then f.pv
      else f.s) == cc.code.getLsbD 0)) ∧
  [Cond.nz, .z, .nc, .c, .po, .pe, .p, .m].map Cond.code =
    [0b000#3, 0b001#3, 0b010#3, 0b011#3, 0b100#3, 0b101#3, 0b110#3, 0b111#3] ∧
  ∀ v : BitVec 3, (Cond.ofCode v).code = v

/-- O51. R24 a, and log entry 26: overflow of an addition and of a subtraction is a signed result that does not fit a
byte, and the carries into and out of bit 7 then differ. That a subtraction has the carries of minuend plus complement
of the subtrahend plus 1 is log entry 26's reading. -/
def Obligations.OverflowIsTheSignedResultOutOfRange : Prop :=
  ∀ x y : Byte,
    (overflowOfAdd x y = true ↔ 127 < x.toInt + y.toInt ∨ x.toInt + y.toInt < -128) ∧
    (overflowOfSub x y = true ↔ 127 < x.toInt - y.toInt ∨ x.toInt - y.toInt < -128) ∧
    (overflowOfAdd x y = true ↔ carryIntoSign x y false ≠ carryOfAdd x y false) ∧
    (overflowOfSub x y = true ↔ carryIntoSign x (~~~y) true ≠ carryOfAdd x (~~~y) true)

/-- O52. R22 b, R25, and log entry 26: the borrow, taken as the complement of the carry of the equivalent addition, says
that the subtrahend (with the borrow in) is the larger number; the half borrow says the same of the low digits, and is
the complement of the half carry of that addition. -/
def Obligations.BorrowSaysSubtrahendIsLarger : Prop :=
  ∀ (x y : Byte) (bin : Bool),
    (borrowOfSub x y bin = true ↔ x.toNat < y.toNat + bin.toNat) ∧
    (halfBorrowOfSub x y bin = true ↔ x.toNat % 16 < y.toNat % 16 + bin.toNat) ∧
    (halfBorrowOfSub x y bin = !halfCarryOfAdd x (~~~y) (!bin))

/-- O53. R187, R189, in the model's form (log entry 11): RETI ends the service of the highest-priority device under service and of no other, and a device
under service holds back every request behind it. -/
def Obligations.DaisyChainServesByPriority : Prop :=
  ∀ hiPart loPart : Chain, (∀ d ∈ hiPart, d ≠ .underService) →
    Chain.retiDone (hiPart ++ .underService :: loPart) = hiPart ++ .idle :: loPart ∧
    Chain.retiDone hiPart = hiPart ∧
    (Chain.requests (hiPart ++ .underService :: loPart) = true ↔ .requesting ∈ hiPart)

/-- O54. R220: M cycles, T states per M cycle and nanoseconds at 4 MHz of every instruction, case by case. That the long
case of a repeat is the one with B not zero after the decrement is a sentence R220 marks as the spec's own inference;
the headings of OTIR follow 90_conflicts.md C5 (log entry 25). -/
def Obligations.TimingTable : Prop :=
  ∀ (s : State) (cc : Cond) (p n : Byte) (r : Reg),
    (mCycles .ret s, tStates .ret s, timeNs .ret s) = (3, [4, 3, 3], 2500) ∧
    (mCycles (.retCc cc) s, tStates (.retCc cc) s, timeNs (.retCc cc) s) =
      (if condHolds cc s.f = true then (3, [5, 3, 3], 2750) else (1, [5], 1250)) ∧
    (∀ x : Instr, x = .reti ∨ x = .retn → (mCycles x s, tStates x s, timeNs x s) = (4, [4, 4, 3, 3], 3500)) ∧
    (mCycles (.rst p) s, tStates (.rst p) s, timeNs (.rst p) s) = (3, [5, 3, 3], 2750) ∧
    (∀ x : Instr, x = .inAN n ∨ x = .outNA n → (mCycles x s, tStates x s, timeNs x s) = (3, [4, 3, 4], 2750)) ∧
    (∀ x : Instr, x = .inRC r ∨ x = .outCR r → (mCycles x s, tStates x s, timeNs x s) = (3, [4, 4, 4], 3000)) ∧
    (∀ x : Instr, x = .ini ∨ x = .ind ∨ x = .outi ∨ x = .outd →
      (mCycles x s, tStates x s, timeNs x s) = (4, [4, 5, 3, 4], 4000)) ∧
    (∀ x : Instr, repeats x = true → (mCycles x s, tStates x s, timeNs x s) =
      (if s.b - 1#8 = 0#8 then (4, [4, 5, 3, 4], 4000) else (5, [4, 5, 3, 4, 5], 5250)))
end

