-- ==== Sys2Proof/Laws/State.lean ====
section
/-!
SUPPORT. One lemma per field of State per update: what each named update leaves and what it changes, so that
no proof unfolds a record update.
-/

namespace Sys2Proof.Machine

variable (s : State)

/-! ### ioWrite -/

@[simp] theorem ioWrite_a (p : Word) (v : Byte) : (s.ioWrite p v).a = s.a := rfl
@[simp] theorem ioWrite_b (p : Word) (v : Byte) : (s.ioWrite p v).b = s.b := rfl
@[simp] theorem ioWrite_c (p : Word) (v : Byte) : (s.ioWrite p v).c = s.c := rfl
@[simp] theorem ioWrite_d (p : Word) (v : Byte) : (s.ioWrite p v).d = s.d := rfl
@[simp] theorem ioWrite_e (p : Word) (v : Byte) : (s.ioWrite p v).e = s.e := rfl
@[simp] theorem ioWrite_h (p : Word) (v : Byte) : (s.ioWrite p v).h = s.h := rfl
@[simp] theorem ioWrite_l (p : Word) (v : Byte) : (s.ioWrite p v).l = s.l := rfl
@[simp] theorem ioWrite_f (p : Word) (v : Byte) : (s.ioWrite p v).f = s.f := rfl
@[simp] theorem ioWrite_pc (p : Word) (v : Byte) : (s.ioWrite p v).pc = s.pc := rfl
@[simp] theorem ioWrite_sp (p : Word) (v : Byte) : (s.ioWrite p v).sp = s.sp := rfl
@[simp] theorem ioWrite_iff1 (p : Word) (v : Byte) : (s.ioWrite p v).iff1 = s.iff1 := rfl
@[simp] theorem ioWrite_iff2 (p : Word) (v : Byte) : (s.ioWrite p v).iff2 = s.iff2 := rfl
@[simp] theorem ioWrite_a' (p : Word) (v : Byte) : (s.ioWrite p v).a' = s.a' := rfl
@[simp] theorem ioWrite_f' (p : Word) (v : Byte) : (s.ioWrite p v).f' = s.f' := rfl
@[simp] theorem ioWrite_b' (p : Word) (v : Byte) : (s.ioWrite p v).b' = s.b' := rfl
@[simp] theorem ioWrite_c' (p : Word) (v : Byte) : (s.ioWrite p v).c' = s.c' := rfl
@[simp] theorem ioWrite_d' (p : Word) (v : Byte) : (s.ioWrite p v).d' = s.d' := rfl
@[simp] theorem ioWrite_e' (p : Word) (v : Byte) : (s.ioWrite p v).e' = s.e' := rfl
@[simp] theorem ioWrite_h' (p : Word) (v : Byte) : (s.ioWrite p v).h' = s.h' := rfl
@[simp] theorem ioWrite_l' (p : Word) (v : Byte) : (s.ioWrite p v).l' = s.l' := rfl
@[simp] theorem ioWrite_ix (p : Word) (v : Byte) : (s.ioWrite p v).ix = s.ix := rfl
@[simp] theorem ioWrite_iy (p : Word) (v : Byte) : (s.ioWrite p v).iy = s.iy := rfl
@[simp] theorem ioWrite_i (p : Word) (v : Byte) : (s.ioWrite p v).i = s.i := rfl
@[simp] theorem ioWrite_r (p : Word) (v : Byte) : (s.ioWrite p v).r = s.r := rfl
@[simp] theorem ioWrite_im (p : Word) (v : Byte) : (s.ioWrite p v).im = s.im := rfl
@[simp] theorem ioWrite_mem (p : Word) (v : Byte) : (s.ioWrite p v).mem = s.mem := rfl
@[simp] theorem ioWrite_memMap (p : Word) (v : Byte) : (s.ioWrite p v).memMap = s.memMap := rfl
@[simp] theorem ioWrite_portBytes (p : Word) (v : Byte) : (s.ioWrite p v).portBytes = s.portBytes := rfl
@[simp] theorem ioWrite_inputs (p : Word) (v : Byte) : (s.ioWrite p v).inputs = s.inputs := rfl
@[simp] theorem ioWrite_chain (p : Word) (v : Byte) : (s.ioWrite p v).chain = s.chain := rfl
@[simp] theorem ioWrite_nmiPending (p : Word) (v : Byte) : (s.ioWrite p v).nmiPending = s.nmiPending := rfl
@[simp] theorem ioWrite_history (p : Word) (v : Byte) : (s.ioWrite p v).history = s.history ++ [.ioWrite p v] := rfl
@[simp] theorem ioWrite_endPc (p : Word) (v : Byte) : (s.ioWrite p v).endPc = s.endPc := rfl
@[simp] theorem ioWrite_draws (p : Word) (v : Byte) : (s.ioWrite p v).draws = s.draws := rfl

/-! ### ioRead -/

@[simp] theorem ioRead_a (p : Word) : (s.ioRead p).2.a = s.a := rfl
@[simp] theorem ioRead_b (p : Word) : (s.ioRead p).2.b = s.b := rfl
@[simp] theorem ioRead_c (p : Word) : (s.ioRead p).2.c = s.c := rfl
@[simp] theorem ioRead_d (p : Word) : (s.ioRead p).2.d = s.d := rfl
@[simp] theorem ioRead_e (p : Word) : (s.ioRead p).2.e = s.e := rfl
@[simp] theorem ioRead_h (p : Word) : (s.ioRead p).2.h = s.h := rfl
@[simp] theorem ioRead_l (p : Word) : (s.ioRead p).2.l = s.l := rfl
@[simp] theorem ioRead_f (p : Word) : (s.ioRead p).2.f = s.f := rfl
@[simp] theorem ioRead_pc (p : Word) : (s.ioRead p).2.pc = s.pc := rfl
@[simp] theorem ioRead_sp (p : Word) : (s.ioRead p).2.sp = s.sp := rfl
@[simp] theorem ioRead_iff1 (p : Word) : (s.ioRead p).2.iff1 = s.iff1 := rfl
@[simp] theorem ioRead_iff2 (p : Word) : (s.ioRead p).2.iff2 = s.iff2 := rfl
@[simp] theorem ioRead_a' (p : Word) : (s.ioRead p).2.a' = s.a' := rfl
@[simp] theorem ioRead_f' (p : Word) : (s.ioRead p).2.f' = s.f' := rfl
@[simp] theorem ioRead_b' (p : Word) : (s.ioRead p).2.b' = s.b' := rfl
@[simp] theorem ioRead_c' (p : Word) : (s.ioRead p).2.c' = s.c' := rfl
@[simp] theorem ioRead_d' (p : Word) : (s.ioRead p).2.d' = s.d' := rfl
@[simp] theorem ioRead_e' (p : Word) : (s.ioRead p).2.e' = s.e' := rfl
@[simp] theorem ioRead_h' (p : Word) : (s.ioRead p).2.h' = s.h' := rfl
@[simp] theorem ioRead_l' (p : Word) : (s.ioRead p).2.l' = s.l' := rfl
@[simp] theorem ioRead_ix (p : Word) : (s.ioRead p).2.ix = s.ix := rfl
@[simp] theorem ioRead_iy (p : Word) : (s.ioRead p).2.iy = s.iy := rfl
@[simp] theorem ioRead_i (p : Word) : (s.ioRead p).2.i = s.i := rfl
@[simp] theorem ioRead_r (p : Word) : (s.ioRead p).2.r = s.r := rfl
@[simp] theorem ioRead_im (p : Word) : (s.ioRead p).2.im = s.im := rfl
@[simp] theorem ioRead_mem (p : Word) : (s.ioRead p).2.mem = s.mem := rfl
@[simp] theorem ioRead_memMap (p : Word) : (s.ioRead p).2.memMap = s.memMap := rfl
@[simp] theorem ioRead_portBytes (p : Word) : (s.ioRead p).2.portBytes = s.portBytes.tail := rfl
@[simp] theorem ioRead_inputs (p : Word) : (s.ioRead p).2.inputs = s.inputs := rfl
@[simp] theorem ioRead_chain (p : Word) : (s.ioRead p).2.chain = s.chain := rfl
@[simp] theorem ioRead_nmiPending (p : Word) : (s.ioRead p).2.nmiPending = s.nmiPending := rfl
@[simp] theorem ioRead_history (p : Word) : (s.ioRead p).2.history = s.history ++ [.ioRead p (s.portByte p)] := rfl
@[simp] theorem ioRead_endPc (p : Word) : (s.ioRead p).2.endPc = s.endPc := rfl
@[simp] theorem ioRead_draws (p : Word) : (s.ioRead p).2.draws = s.draws + 1 := rfl

/-! ### signalRetiDone -/

@[simp] theorem signalRetiDone_a : s.signalRetiDone.a = s.a := rfl
@[simp] theorem signalRetiDone_b : s.signalRetiDone.b = s.b := rfl
@[simp] theorem signalRetiDone_c : s.signalRetiDone.c = s.c := rfl
@[simp] theorem signalRetiDone_d : s.signalRetiDone.d = s.d := rfl
@[simp] theorem signalRetiDone_e : s.signalRetiDone.e = s.e := rfl
@[simp] theorem signalRetiDone_h : s.signalRetiDone.h = s.h := rfl
@[simp] theorem signalRetiDone_l : s.signalRetiDone.l = s.l := rfl
@[simp] theorem signalRetiDone_f : s.signalRetiDone.f = s.f := rfl
@[simp] theorem signalRetiDone_pc : s.signalRetiDone.pc = s.pc := rfl
@[simp] theorem signalRetiDone_sp : s.signalRetiDone.sp = s.sp := rfl
@[simp] theorem signalRetiDone_iff1 : s.signalRetiDone.iff1 = s.iff1 := rfl
@[simp] theorem signalRetiDone_iff2 : s.signalRetiDone.iff2 = s.iff2 := rfl
@[simp] theorem signalRetiDone_a' : s.signalRetiDone.a' = s.a' := rfl
@[simp] theorem signalRetiDone_f' : s.signalRetiDone.f' = s.f' := rfl
@[simp] theorem signalRetiDone_b' : s.signalRetiDone.b' = s.b' := rfl
@[simp] theorem signalRetiDone_c' : s.signalRetiDone.c' = s.c' := rfl
@[simp] theorem signalRetiDone_d' : s.signalRetiDone.d' = s.d' := rfl
@[simp] theorem signalRetiDone_e' : s.signalRetiDone.e' = s.e' := rfl
@[simp] theorem signalRetiDone_h' : s.signalRetiDone.h' = s.h' := rfl
@[simp] theorem signalRetiDone_l' : s.signalRetiDone.l' = s.l' := rfl
@[simp] theorem signalRetiDone_ix : s.signalRetiDone.ix = s.ix := rfl
@[simp] theorem signalRetiDone_iy : s.signalRetiDone.iy = s.iy := rfl
@[simp] theorem signalRetiDone_i : s.signalRetiDone.i = s.i := rfl
@[simp] theorem signalRetiDone_r : s.signalRetiDone.r = s.r := rfl
@[simp] theorem signalRetiDone_im : s.signalRetiDone.im = s.im := rfl
@[simp] theorem signalRetiDone_mem : s.signalRetiDone.mem = s.mem := rfl
@[simp] theorem signalRetiDone_memMap : s.signalRetiDone.memMap = s.memMap := rfl
@[simp] theorem signalRetiDone_portBytes : s.signalRetiDone.portBytes = s.portBytes := rfl
@[simp] theorem signalRetiDone_inputs : s.signalRetiDone.inputs = s.inputs := rfl
@[simp] theorem signalRetiDone_chain : s.signalRetiDone.chain = Chain.retiDone s.chain := rfl
@[simp] theorem signalRetiDone_nmiPending : s.signalRetiDone.nmiPending = s.nmiPending := rfl
@[simp] theorem signalRetiDone_history : s.signalRetiDone.history = s.history ++ [.retiDone] := rfl
@[simp] theorem signalRetiDone_endPc : s.signalRetiDone.endPc = s.endPc := rfl
@[simp] theorem signalRetiDone_draws : s.signalRetiDone.draws = s.draws := rfl

/-! ### restoreIff1 -/

@[simp] theorem restoreIff1_a : s.restoreIff1.a = s.a := rfl
@[simp] theorem restoreIff1_b : s.restoreIff1.b = s.b := rfl
@[simp] theorem restoreIff1_c : s.restoreIff1.c = s.c := rfl
@[simp] theorem restoreIff1_d : s.restoreIff1.d = s.d := rfl
@[simp] theorem restoreIff1_e : s.restoreIff1.e = s.e := rfl
@[simp] theorem restoreIff1_h : s.restoreIff1.h = s.h := rfl
@[simp] theorem restoreIff1_l : s.restoreIff1.l = s.l := rfl
@[simp] theorem restoreIff1_f : s.restoreIff1.f = s.f := rfl
@[simp] theorem restoreIff1_pc : s.restoreIff1.pc = s.pc := rfl
@[simp] theorem restoreIff1_sp : s.restoreIff1.sp = s.sp := rfl
@[simp] theorem restoreIff1_iff1 : s.restoreIff1.iff1 = s.iff2 := rfl
@[simp] theorem restoreIff1_iff2 : s.restoreIff1.iff2 = s.iff2 := rfl
@[simp] theorem restoreIff1_a' : s.restoreIff1.a' = s.a' := rfl
@[simp] theorem restoreIff1_f' : s.restoreIff1.f' = s.f' := rfl
@[simp] theorem restoreIff1_b' : s.restoreIff1.b' = s.b' := rfl
@[simp] theorem restoreIff1_c' : s.restoreIff1.c' = s.c' := rfl
@[simp] theorem restoreIff1_d' : s.restoreIff1.d' = s.d' := rfl
@[simp] theorem restoreIff1_e' : s.restoreIff1.e' = s.e' := rfl
@[simp] theorem restoreIff1_h' : s.restoreIff1.h' = s.h' := rfl
@[simp] theorem restoreIff1_l' : s.restoreIff1.l' = s.l' := rfl
@[simp] theorem restoreIff1_ix : s.restoreIff1.ix = s.ix := rfl
@[simp] theorem restoreIff1_iy : s.restoreIff1.iy = s.iy := rfl
@[simp] theorem restoreIff1_i : s.restoreIff1.i = s.i := rfl
@[simp] theorem restoreIff1_r : s.restoreIff1.r = s.r := rfl
@[simp] theorem restoreIff1_im : s.restoreIff1.im = s.im := rfl
@[simp] theorem restoreIff1_mem : s.restoreIff1.mem = s.mem := rfl
@[simp] theorem restoreIff1_memMap : s.restoreIff1.memMap = s.memMap := rfl
@[simp] theorem restoreIff1_portBytes : s.restoreIff1.portBytes = s.portBytes := rfl
@[simp] theorem restoreIff1_inputs : s.restoreIff1.inputs = s.inputs := rfl
@[simp] theorem restoreIff1_chain : s.restoreIff1.chain = s.chain := rfl
@[simp] theorem restoreIff1_nmiPending : s.restoreIff1.nmiPending = s.nmiPending := rfl
@[simp] theorem restoreIff1_history : s.restoreIff1.history = s.history := rfl
@[simp] theorem restoreIff1_endPc : s.restoreIff1.endPc = s.endPc := rfl
@[simp] theorem restoreIff1_draws : s.restoreIff1.draws = s.draws := rfl

/-! ### setHL -/

@[simp] theorem setHL_a (w : Word) : (s.setHL w).a = s.a := rfl
@[simp] theorem setHL_b (w : Word) : (s.setHL w).b = s.b := rfl
@[simp] theorem setHL_c (w : Word) : (s.setHL w).c = s.c := rfl
@[simp] theorem setHL_d (w : Word) : (s.setHL w).d = s.d := rfl
@[simp] theorem setHL_e (w : Word) : (s.setHL w).e = s.e := rfl
@[simp] theorem setHL_h (w : Word) : (s.setHL w).h = hi w := rfl
@[simp] theorem setHL_l (w : Word) : (s.setHL w).l = lo w := rfl
@[simp] theorem setHL_f (w : Word) : (s.setHL w).f = s.f := rfl
@[simp] theorem setHL_pc (w : Word) : (s.setHL w).pc = s.pc := rfl
@[simp] theorem setHL_sp (w : Word) : (s.setHL w).sp = s.sp := rfl
@[simp] theorem setHL_iff1 (w : Word) : (s.setHL w).iff1 = s.iff1 := rfl
@[simp] theorem setHL_iff2 (w : Word) : (s.setHL w).iff2 = s.iff2 := rfl
@[simp] theorem setHL_a' (w : Word) : (s.setHL w).a' = s.a' := rfl
@[simp] theorem setHL_f' (w : Word) : (s.setHL w).f' = s.f' := rfl
@[simp] theorem setHL_b' (w : Word) : (s.setHL w).b' = s.b' := rfl
@[simp] theorem setHL_c' (w : Word) : (s.setHL w).c' = s.c' := rfl
@[simp] theorem setHL_d' (w : Word) : (s.setHL w).d' = s.d' := rfl
@[simp] theorem setHL_e' (w : Word) : (s.setHL w).e' = s.e' := rfl
@[simp] theorem setHL_h' (w : Word) : (s.setHL w).h' = s.h' := rfl
@[simp] theorem setHL_l' (w : Word) : (s.setHL w).l' = s.l' := rfl
@[simp] theorem setHL_ix (w : Word) : (s.setHL w).ix = s.ix := rfl
@[simp] theorem setHL_iy (w : Word) : (s.setHL w).iy = s.iy := rfl
@[simp] theorem setHL_i (w : Word) : (s.setHL w).i = s.i := rfl
@[simp] theorem setHL_r (w : Word) : (s.setHL w).r = s.r := rfl
@[simp] theorem setHL_im (w : Word) : (s.setHL w).im = s.im := rfl
@[simp] theorem setHL_mem (w : Word) : (s.setHL w).mem = s.mem := rfl
@[simp] theorem setHL_memMap (w : Word) : (s.setHL w).memMap = s.memMap := rfl
@[simp] theorem setHL_portBytes (w : Word) : (s.setHL w).portBytes = s.portBytes := rfl
@[simp] theorem setHL_inputs (w : Word) : (s.setHL w).inputs = s.inputs := rfl
@[simp] theorem setHL_chain (w : Word) : (s.setHL w).chain = s.chain := rfl
@[simp] theorem setHL_nmiPending (w : Word) : (s.setHL w).nmiPending = s.nmiPending := rfl
@[simp] theorem setHL_history (w : Word) : (s.setHL w).history = s.history := rfl
@[simp] theorem setHL_endPc (w : Word) : (s.setHL w).endPc = s.endPc := rfl
@[simp] theorem setHL_draws (w : Word) : (s.setHL w).draws = s.draws := rfl

/-! ### setInputFlags -/

@[simp] theorem setInputFlags_a (v : Byte) : (s.setInputFlags v).a = s.a := rfl
@[simp] theorem setInputFlags_b (v : Byte) : (s.setInputFlags v).b = s.b := rfl
@[simp] theorem setInputFlags_c (v : Byte) : (s.setInputFlags v).c = s.c := rfl
@[simp] theorem setInputFlags_d (v : Byte) : (s.setInputFlags v).d = s.d := rfl
@[simp] theorem setInputFlags_e (v : Byte) : (s.setInputFlags v).e = s.e := rfl
@[simp] theorem setInputFlags_h (v : Byte) : (s.setInputFlags v).h = s.h := rfl
@[simp] theorem setInputFlags_l (v : Byte) : (s.setInputFlags v).l = s.l := rfl
@[simp] theorem setInputFlags_pc (v : Byte) : (s.setInputFlags v).pc = s.pc := rfl
@[simp] theorem setInputFlags_sp (v : Byte) : (s.setInputFlags v).sp = s.sp := rfl
@[simp] theorem setInputFlags_iff1 (v : Byte) : (s.setInputFlags v).iff1 = s.iff1 := rfl
@[simp] theorem setInputFlags_iff2 (v : Byte) : (s.setInputFlags v).iff2 = s.iff2 := rfl
@[simp] theorem setInputFlags_a' (v : Byte) : (s.setInputFlags v).a' = s.a' := rfl
@[simp] theorem setInputFlags_f' (v : Byte) : (s.setInputFlags v).f' = s.f' := rfl
@[simp] theorem setInputFlags_b' (v : Byte) : (s.setInputFlags v).b' = s.b' := rfl
@[simp] theorem setInputFlags_c' (v : Byte) : (s.setInputFlags v).c' = s.c' := rfl
@[simp] theorem setInputFlags_d' (v : Byte) : (s.setInputFlags v).d' = s.d' := rfl
@[simp] theorem setInputFlags_e' (v : Byte) : (s.setInputFlags v).e' = s.e' := rfl
@[simp] theorem setInputFlags_h' (v : Byte) : (s.setInputFlags v).h' = s.h' := rfl
@[simp] theorem setInputFlags_l' (v : Byte) : (s.setInputFlags v).l' = s.l' := rfl
@[simp] theorem setInputFlags_ix (v : Byte) : (s.setInputFlags v).ix = s.ix := rfl
@[simp] theorem setInputFlags_iy (v : Byte) : (s.setInputFlags v).iy = s.iy := rfl
@[simp] theorem setInputFlags_i (v : Byte) : (s.setInputFlags v).i = s.i := rfl
@[simp] theorem setInputFlags_r (v : Byte) : (s.setInputFlags v).r = s.r := rfl
@[simp] theorem setInputFlags_im (v : Byte) : (s.setInputFlags v).im = s.im := rfl
@[simp] theorem setInputFlags_mem (v : Byte) : (s.setInputFlags v).mem = s.mem := rfl
@[simp] theorem setInputFlags_memMap (v : Byte) : (s.setInputFlags v).memMap = s.memMap := rfl
@[simp] theorem setInputFlags_portBytes (v : Byte) : (s.setInputFlags v).portBytes = s.portBytes := rfl
@[simp] theorem setInputFlags_inputs (v : Byte) : (s.setInputFlags v).inputs = s.inputs := rfl
@[simp] theorem setInputFlags_chain (v : Byte) : (s.setInputFlags v).chain = s.chain := rfl
@[simp] theorem setInputFlags_nmiPending (v : Byte) : (s.setInputFlags v).nmiPending = s.nmiPending := rfl
@[simp] theorem setInputFlags_history (v : Byte) : (s.setInputFlags v).history = s.history := rfl
@[simp] theorem setInputFlags_endPc (v : Byte) : (s.setInputFlags v).endPc = s.endPc := rfl
@[simp] theorem setInputFlags_draws (v : Byte) : (s.setInputFlags v).draws = s.draws + 2 := rfl

/-! ### setBlockFlags -/

@[simp] theorem setBlockFlags_a (v : Byte) : (s.setBlockFlags v).a = s.a := rfl
@[simp] theorem setBlockFlags_b (v : Byte) : (s.setBlockFlags v).b = s.b := rfl
@[simp] theorem setBlockFlags_c (v : Byte) : (s.setBlockFlags v).c = s.c := rfl
@[simp] theorem setBlockFlags_d (v : Byte) : (s.setBlockFlags v).d = s.d := rfl
@[simp] theorem setBlockFlags_e (v : Byte) : (s.setBlockFlags v).e = s.e := rfl
@[simp] theorem setBlockFlags_h (v : Byte) : (s.setBlockFlags v).h = s.h := rfl
@[simp] theorem setBlockFlags_l (v : Byte) : (s.setBlockFlags v).l = s.l := rfl
@[simp] theorem setBlockFlags_pc (v : Byte) : (s.setBlockFlags v).pc = s.pc := rfl
@[simp] theorem setBlockFlags_sp (v : Byte) : (s.setBlockFlags v).sp = s.sp := rfl
@[simp] theorem setBlockFlags_iff1 (v : Byte) : (s.setBlockFlags v).iff1 = s.iff1 := rfl
@[simp] theorem setBlockFlags_iff2 (v : Byte) : (s.setBlockFlags v).iff2 = s.iff2 := rfl
@[simp] theorem setBlockFlags_a' (v : Byte) : (s.setBlockFlags v).a' = s.a' := rfl
@[simp] theorem setBlockFlags_f' (v : Byte) : (s.setBlockFlags v).f' = s.f' := rfl
@[simp] theorem setBlockFlags_b' (v : Byte) : (s.setBlockFlags v).b' = s.b' := rfl
@[simp] theorem setBlockFlags_c' (v : Byte) : (s.setBlockFlags v).c' = s.c' := rfl
@[simp] theorem setBlockFlags_d' (v : Byte) : (s.setBlockFlags v).d' = s.d' := rfl
@[simp] theorem setBlockFlags_e' (v : Byte) : (s.setBlockFlags v).e' = s.e' := rfl
@[simp] theorem setBlockFlags_h' (v : Byte) : (s.setBlockFlags v).h' = s.h' := rfl
@[simp] theorem setBlockFlags_l' (v : Byte) : (s.setBlockFlags v).l' = s.l' := rfl
@[simp] theorem setBlockFlags_ix (v : Byte) : (s.setBlockFlags v).ix = s.ix := rfl
@[simp] theorem setBlockFlags_iy (v : Byte) : (s.setBlockFlags v).iy = s.iy := rfl
@[simp] theorem setBlockFlags_i (v : Byte) : (s.setBlockFlags v).i = s.i := rfl
@[simp] theorem setBlockFlags_r (v : Byte) : (s.setBlockFlags v).r = s.r := rfl
@[simp] theorem setBlockFlags_im (v : Byte) : (s.setBlockFlags v).im = s.im := rfl
@[simp] theorem setBlockFlags_mem (v : Byte) : (s.setBlockFlags v).mem = s.mem := rfl
@[simp] theorem setBlockFlags_memMap (v : Byte) : (s.setBlockFlags v).memMap = s.memMap := rfl
@[simp] theorem setBlockFlags_portBytes (v : Byte) : (s.setBlockFlags v).portBytes = s.portBytes := rfl
@[simp] theorem setBlockFlags_inputs (v : Byte) : (s.setBlockFlags v).inputs = s.inputs := rfl
@[simp] theorem setBlockFlags_chain (v : Byte) : (s.setBlockFlags v).chain = s.chain := rfl
@[simp] theorem setBlockFlags_nmiPending (v : Byte) : (s.setBlockFlags v).nmiPending = s.nmiPending := rfl
@[simp] theorem setBlockFlags_history (v : Byte) : (s.setBlockFlags v).history = s.history := rfl
@[simp] theorem setBlockFlags_endPc (v : Byte) : (s.setBlockFlags v).endPc = s.endPc := rfl
@[simp] theorem setBlockFlags_draws (v : Byte) : (s.setBlockFlags v).draws = s.draws + 5 := rfl

/-! ### memRead -/

@[simp] theorem memRead_fst (x : Word) : (s.memRead x).1 = s.readByte x := rfl
@[simp] theorem memRead_draws (x : Word) : (s.memRead x).2.draws = s.draws + MemKind.readDraws (s.kindAt x) := rfl
@[simp] theorem memRead_a (x : Word) : (s.memRead x).2.a = s.a := rfl
@[simp] theorem memRead_b (x : Word) : (s.memRead x).2.b = s.b := rfl
@[simp] theorem memRead_c (x : Word) : (s.memRead x).2.c = s.c := rfl
@[simp] theorem memRead_d (x : Word) : (s.memRead x).2.d = s.d := rfl
@[simp] theorem memRead_e (x : Word) : (s.memRead x).2.e = s.e := rfl
@[simp] theorem memRead_h (x : Word) : (s.memRead x).2.h = s.h := rfl
@[simp] theorem memRead_l (x : Word) : (s.memRead x).2.l = s.l := rfl
@[simp] theorem memRead_f (x : Word) : (s.memRead x).2.f = s.f := rfl
@[simp] theorem memRead_pc (x : Word) : (s.memRead x).2.pc = s.pc := rfl
@[simp] theorem memRead_sp (x : Word) : (s.memRead x).2.sp = s.sp := rfl
@[simp] theorem memRead_iff1 (x : Word) : (s.memRead x).2.iff1 = s.iff1 := rfl
@[simp] theorem memRead_iff2 (x : Word) : (s.memRead x).2.iff2 = s.iff2 := rfl
@[simp] theorem memRead_a' (x : Word) : (s.memRead x).2.a' = s.a' := rfl
@[simp] theorem memRead_f' (x : Word) : (s.memRead x).2.f' = s.f' := rfl
@[simp] theorem memRead_b' (x : Word) : (s.memRead x).2.b' = s.b' := rfl
@[simp] theorem memRead_c' (x : Word) : (s.memRead x).2.c' = s.c' := rfl
@[simp] theorem memRead_d' (x : Word) : (s.memRead x).2.d' = s.d' := rfl
@[simp] theorem memRead_e' (x : Word) : (s.memRead x).2.e' = s.e' := rfl
@[simp] theorem memRead_h' (x : Word) : (s.memRead x).2.h' = s.h' := rfl
@[simp] theorem memRead_l' (x : Word) : (s.memRead x).2.l' = s.l' := rfl
@[simp] theorem memRead_ix (x : Word) : (s.memRead x).2.ix = s.ix := rfl
@[simp] theorem memRead_iy (x : Word) : (s.memRead x).2.iy = s.iy := rfl
@[simp] theorem memRead_i (x : Word) : (s.memRead x).2.i = s.i := rfl
@[simp] theorem memRead_r (x : Word) : (s.memRead x).2.r = s.r := rfl
@[simp] theorem memRead_im (x : Word) : (s.memRead x).2.im = s.im := rfl
@[simp] theorem memRead_mem (x : Word) : (s.memRead x).2.mem = s.mem := rfl
@[simp] theorem memRead_memMap (x : Word) : (s.memRead x).2.memMap = s.memMap := rfl
@[simp] theorem memRead_portBytes (x : Word) : (s.memRead x).2.portBytes = s.portBytes := rfl
@[simp] theorem memRead_inputs (x : Word) : (s.memRead x).2.inputs = s.inputs := rfl
@[simp] theorem memRead_chain (x : Word) : (s.memRead x).2.chain = s.chain := rfl
@[simp] theorem memRead_nmiPending (x : Word) : (s.memRead x).2.nmiPending = s.nmiPending := rfl
@[simp] theorem memRead_history (x : Word) : (s.memRead x).2.history = s.history := rfl
@[simp] theorem memRead_endPc (x : Word) : (s.memRead x).2.endPc = s.endPc := rfl

/-! ### memWrite -/

@[simp] theorem memWrite_mem (x : Word) (v : Byte) : (s.memWrite x v).mem = Memory.store s.mem (s.kindAt x) x.toNat v := rfl
@[simp] theorem memWrite_a (x : Word) (v : Byte) : (s.memWrite x v).a = s.a := rfl
@[simp] theorem memWrite_b (x : Word) (v : Byte) : (s.memWrite x v).b = s.b := rfl
@[simp] theorem memWrite_c (x : Word) (v : Byte) : (s.memWrite x v).c = s.c := rfl
@[simp] theorem memWrite_d (x : Word) (v : Byte) : (s.memWrite x v).d = s.d := rfl
@[simp] theorem memWrite_e (x : Word) (v : Byte) : (s.memWrite x v).e = s.e := rfl
@[simp] theorem memWrite_h (x : Word) (v : Byte) : (s.memWrite x v).h = s.h := rfl
@[simp] theorem memWrite_l (x : Word) (v : Byte) : (s.memWrite x v).l = s.l := rfl
@[simp] theorem memWrite_f (x : Word) (v : Byte) : (s.memWrite x v).f = s.f := rfl
@[simp] theorem memWrite_pc (x : Word) (v : Byte) : (s.memWrite x v).pc = s.pc := rfl
@[simp] theorem memWrite_sp (x : Word) (v : Byte) : (s.memWrite x v).sp = s.sp := rfl
@[simp] theorem memWrite_iff1 (x : Word) (v : Byte) : (s.memWrite x v).iff1 = s.iff1 := rfl
@[simp] theorem memWrite_iff2 (x : Word) (v : Byte) : (s.memWrite x v).iff2 = s.iff2 := rfl
@[simp] theorem memWrite_a' (x : Word) (v : Byte) : (s.memWrite x v).a' = s.a' := rfl
@[simp] theorem memWrite_f' (x : Word) (v : Byte) : (s.memWrite x v).f' = s.f' := rfl
@[simp] theorem memWrite_b' (x : Word) (v : Byte) : (s.memWrite x v).b' = s.b' := rfl
@[simp] theorem memWrite_c' (x : Word) (v : Byte) : (s.memWrite x v).c' = s.c' := rfl
@[simp] theorem memWrite_d' (x : Word) (v : Byte) : (s.memWrite x v).d' = s.d' := rfl
@[simp] theorem memWrite_e' (x : Word) (v : Byte) : (s.memWrite x v).e' = s.e' := rfl
@[simp] theorem memWrite_h' (x : Word) (v : Byte) : (s.memWrite x v).h' = s.h' := rfl
@[simp] theorem memWrite_l' (x : Word) (v : Byte) : (s.memWrite x v).l' = s.l' := rfl
@[simp] theorem memWrite_ix (x : Word) (v : Byte) : (s.memWrite x v).ix = s.ix := rfl
@[simp] theorem memWrite_iy (x : Word) (v : Byte) : (s.memWrite x v).iy = s.iy := rfl
@[simp] theorem memWrite_i (x : Word) (v : Byte) : (s.memWrite x v).i = s.i := rfl
@[simp] theorem memWrite_r (x : Word) (v : Byte) : (s.memWrite x v).r = s.r := rfl
@[simp] theorem memWrite_im (x : Word) (v : Byte) : (s.memWrite x v).im = s.im := rfl
@[simp] theorem memWrite_memMap (x : Word) (v : Byte) : (s.memWrite x v).memMap = s.memMap := rfl
@[simp] theorem memWrite_portBytes (x : Word) (v : Byte) : (s.memWrite x v).portBytes = s.portBytes := rfl
@[simp] theorem memWrite_inputs (x : Word) (v : Byte) : (s.memWrite x v).inputs = s.inputs := rfl
@[simp] theorem memWrite_chain (x : Word) (v : Byte) : (s.memWrite x v).chain = s.chain := rfl
@[simp] theorem memWrite_nmiPending (x : Word) (v : Byte) : (s.memWrite x v).nmiPending = s.nmiPending := rfl
@[simp] theorem memWrite_history (x : Word) (v : Byte) : (s.memWrite x v).history = s.history := rfl
@[simp] theorem memWrite_endPc (x : Word) (v : Byte) : (s.memWrite x v).endPc = s.endPc := rfl
@[simp] theorem memWrite_draws (x : Word) (v : Byte) : (s.memWrite x v).draws = s.draws := rfl

/-! ### repeatUnlessDone -/

@[simp] theorem repeatUnlessDone_a : s.repeatUnlessDone.a = s.a := rfl
@[simp] theorem repeatUnlessDone_b : s.repeatUnlessDone.b = s.b := rfl
@[simp] theorem repeatUnlessDone_c : s.repeatUnlessDone.c = s.c := rfl
@[simp] theorem repeatUnlessDone_d : s.repeatUnlessDone.d = s.d := rfl
@[simp] theorem repeatUnlessDone_e : s.repeatUnlessDone.e = s.e := rfl
@[simp] theorem repeatUnlessDone_h : s.repeatUnlessDone.h = s.h := rfl
@[simp] theorem repeatUnlessDone_l : s.repeatUnlessDone.l = s.l := rfl
@[simp] theorem repeatUnlessDone_f : s.repeatUnlessDone.f = s.f := rfl
@[simp] theorem repeatUnlessDone_pc : s.repeatUnlessDone.pc = if s.b = 0#8 then s.pc else s.pc - 2#16 := rfl
@[simp] theorem repeatUnlessDone_sp : s.repeatUnlessDone.sp = s.sp := rfl
@[simp] theorem repeatUnlessDone_iff1 : s.repeatUnlessDone.iff1 = s.iff1 := rfl
@[simp] theorem repeatUnlessDone_iff2 : s.repeatUnlessDone.iff2 = s.iff2 := rfl
@[simp] theorem repeatUnlessDone_a' : s.repeatUnlessDone.a' = s.a' := rfl
@[simp] theorem repeatUnlessDone_f' : s.repeatUnlessDone.f' = s.f' := rfl
@[simp] theorem repeatUnlessDone_b' : s.repeatUnlessDone.b' = s.b' := rfl
@[simp] theorem repeatUnlessDone_c' : s.repeatUnlessDone.c' = s.c' := rfl
@[simp] theorem repeatUnlessDone_d' : s.repeatUnlessDone.d' = s.d' := rfl
@[simp] theorem repeatUnlessDone_e' : s.repeatUnlessDone.e' = s.e' := rfl
@[simp] theorem repeatUnlessDone_h' : s.repeatUnlessDone.h' = s.h' := rfl
@[simp] theorem repeatUnlessDone_l' : s.repeatUnlessDone.l' = s.l' := rfl
@[simp] theorem repeatUnlessDone_ix : s.repeatUnlessDone.ix = s.ix := rfl
@[simp] theorem repeatUnlessDone_iy : s.repeatUnlessDone.iy = s.iy := rfl
@[simp] theorem repeatUnlessDone_i : s.repeatUnlessDone.i = s.i := rfl
@[simp] theorem repeatUnlessDone_r : s.repeatUnlessDone.r = s.r := rfl
@[simp] theorem repeatUnlessDone_im : s.repeatUnlessDone.im = s.im := rfl
@[simp] theorem repeatUnlessDone_mem : s.repeatUnlessDone.mem = s.mem := rfl
@[simp] theorem repeatUnlessDone_memMap : s.repeatUnlessDone.memMap = s.memMap := rfl
@[simp] theorem repeatUnlessDone_portBytes : s.repeatUnlessDone.portBytes = s.portBytes := rfl
@[simp] theorem repeatUnlessDone_inputs : s.repeatUnlessDone.inputs = s.inputs := rfl
@[simp] theorem repeatUnlessDone_chain : s.repeatUnlessDone.chain = s.chain := rfl
@[simp] theorem repeatUnlessDone_nmiPending : s.repeatUnlessDone.nmiPending = s.nmiPending := rfl
@[simp] theorem repeatUnlessDone_history : s.repeatUnlessDone.history = s.history := rfl
@[simp] theorem repeatUnlessDone_endPc : s.repeatUnlessDone.endPc = s.endPc := rfl
@[simp] theorem repeatUnlessDone_draws : s.repeatUnlessDone.draws = s.draws := rfl

/-! ### latchInputs -/

@[simp] theorem latchInputs_a : s.latchInputs.a = s.a := rfl
@[simp] theorem latchInputs_b : s.latchInputs.b = s.b := rfl
@[simp] theorem latchInputs_c : s.latchInputs.c = s.c := rfl
@[simp] theorem latchInputs_d : s.latchInputs.d = s.d := rfl
@[simp] theorem latchInputs_e : s.latchInputs.e = s.e := rfl
@[simp] theorem latchInputs_h : s.latchInputs.h = s.h := rfl
@[simp] theorem latchInputs_l : s.latchInputs.l = s.l := rfl
@[simp] theorem latchInputs_f : s.latchInputs.f = s.f := rfl
@[simp] theorem latchInputs_pc : s.latchInputs.pc = s.pc := rfl
@[simp] theorem latchInputs_sp : s.latchInputs.sp = s.sp := rfl
@[simp] theorem latchInputs_iff1 : s.latchInputs.iff1 = s.iff1 := rfl
@[simp] theorem latchInputs_iff2 : s.latchInputs.iff2 = s.iff2 := rfl
@[simp] theorem latchInputs_a' : s.latchInputs.a' = s.a' := rfl
@[simp] theorem latchInputs_f' : s.latchInputs.f' = s.f' := rfl
@[simp] theorem latchInputs_b' : s.latchInputs.b' = s.b' := rfl
@[simp] theorem latchInputs_c' : s.latchInputs.c' = s.c' := rfl
@[simp] theorem latchInputs_d' : s.latchInputs.d' = s.d' := rfl
@[simp] theorem latchInputs_e' : s.latchInputs.e' = s.e' := rfl
@[simp] theorem latchInputs_h' : s.latchInputs.h' = s.h' := rfl
@[simp] theorem latchInputs_l' : s.latchInputs.l' = s.l' := rfl
@[simp] theorem latchInputs_ix : s.latchInputs.ix = s.ix := rfl
@[simp] theorem latchInputs_iy : s.latchInputs.iy = s.iy := rfl
@[simp] theorem latchInputs_i : s.latchInputs.i = s.i := rfl
@[simp] theorem latchInputs_r : s.latchInputs.r = s.r := rfl
@[simp] theorem latchInputs_im : s.latchInputs.im = s.im := rfl
@[simp] theorem latchInputs_mem : s.latchInputs.mem = s.mem := rfl
@[simp] theorem latchInputs_memMap : s.latchInputs.memMap = s.memMap := rfl
@[simp] theorem latchInputs_portBytes : s.latchInputs.portBytes = s.portBytes := rfl
@[simp] theorem latchInputs_inputs : s.latchInputs.inputs = s.inputs.tail := rfl
@[simp] theorem latchInputs_chain : s.latchInputs.chain = Chain.raise s.chain (devicesRaised s.inputs) := rfl
@[simp] theorem latchInputs_nmiPending : s.latchInputs.nmiPending = (s.nmiPending || nmiRequested s.inputs) := rfl
@[simp] theorem latchInputs_history : s.latchInputs.history = s.history := rfl
@[simp] theorem latchInputs_endPc : s.latchInputs.endPc = s.endPc := rfl
@[simp] theorem latchInputs_draws : s.latchInputs.draws = s.draws := rfl

/-! ### setReg: the fields that hold no numbered register -/

@[simp] theorem setReg_f (x : Reg) (v : Byte) : (s.setReg x v).f = s.f := by
  cases x <;> rfl
@[simp] theorem setReg_pc (x : Reg) (v : Byte) : (s.setReg x v).pc = s.pc := by
  cases x <;> rfl
@[simp] theorem setReg_sp (x : Reg) (v : Byte) : (s.setReg x v).sp = s.sp := by
  cases x <;> rfl
@[simp] theorem setReg_iff1 (x : Reg) (v : Byte) : (s.setReg x v).iff1 = s.iff1 := by
  cases x <;> rfl
@[simp] theorem setReg_iff2 (x : Reg) (v : Byte) : (s.setReg x v).iff2 = s.iff2 := by
  cases x <;> rfl
@[simp] theorem setReg_a' (x : Reg) (v : Byte) : (s.setReg x v).a' = s.a' := by
  cases x <;> rfl
@[simp] theorem setReg_f' (x : Reg) (v : Byte) : (s.setReg x v).f' = s.f' := by
  cases x <;> rfl
@[simp] theorem setReg_b' (x : Reg) (v : Byte) : (s.setReg x v).b' = s.b' := by
  cases x <;> rfl
@[simp] theorem setReg_c' (x : Reg) (v : Byte) : (s.setReg x v).c' = s.c' := by
  cases x <;> rfl
@[simp] theorem setReg_d' (x : Reg) (v : Byte) : (s.setReg x v).d' = s.d' := by
  cases x <;> rfl
@[simp] theorem setReg_e' (x : Reg) (v : Byte) : (s.setReg x v).e' = s.e' := by
  cases x <;> rfl
@[simp] theorem setReg_h' (x : Reg) (v : Byte) : (s.setReg x v).h' = s.h' := by
  cases x <;> rfl
@[simp] theorem setReg_l' (x : Reg) (v : Byte) : (s.setReg x v).l' = s.l' := by
  cases x <;> rfl
@[simp] theorem setReg_ix (x : Reg) (v : Byte) : (s.setReg x v).ix = s.ix := by
  cases x <;> rfl
@[simp] theorem setReg_iy (x : Reg) (v : Byte) : (s.setReg x v).iy = s.iy := by
  cases x <;> rfl
@[simp] theorem setReg_i (x : Reg) (v : Byte) : (s.setReg x v).i = s.i := by
  cases x <;> rfl
@[simp] theorem setReg_r (x : Reg) (v : Byte) : (s.setReg x v).r = s.r := by
  cases x <;> rfl
@[simp] theorem setReg_im (x : Reg) (v : Byte) : (s.setReg x v).im = s.im := by
  cases x <;> rfl
@[simp] theorem setReg_mem (x : Reg) (v : Byte) : (s.setReg x v).mem = s.mem := by
  cases x <;> rfl
@[simp] theorem setReg_memMap (x : Reg) (v : Byte) : (s.setReg x v).memMap = s.memMap := by
  cases x <;> rfl
@[simp] theorem setReg_portBytes (x : Reg) (v : Byte) : (s.setReg x v).portBytes = s.portBytes := by
  cases x <;> rfl
@[simp] theorem setReg_inputs (x : Reg) (v : Byte) : (s.setReg x v).inputs = s.inputs := by
  cases x <;> rfl
@[simp] theorem setReg_chain (x : Reg) (v : Byte) : (s.setReg x v).chain = s.chain := by
  cases x <;> rfl
@[simp] theorem setReg_nmiPending (x : Reg) (v : Byte) : (s.setReg x v).nmiPending = s.nmiPending := by
  cases x <;> rfl
@[simp] theorem setReg_history (x : Reg) (v : Byte) : (s.setReg x v).history = s.history := by
  cases x <;> rfl
@[simp] theorem setReg_endPc (x : Reg) (v : Byte) : (s.setReg x v).endPc = s.endPc := by
  cases x <;> rfl
@[simp] theorem setReg_draws (x : Reg) (v : Byte) : (s.setReg x v).draws = s.draws := by
  cases x <;> rfl

/-! ### Registers -/

@[simp] theorem getReg_setReg_same (x : Reg) (v : Byte) : (s.setReg x v).getReg x = v := by
  cases x <;> rfl

theorem getReg_setReg_other {x y : Reg} (h : y ≠ x) (v : Byte) : (s.setReg x v).getReg y = s.getReg y := by
  cases x <;> cases y <;> first | exact absurd rfl h | rfl

/-! ### Flags -/

@[simp] theorem setInputFlags_f_s (v : Byte) : (s.setInputFlags v).f.s = signOf v := rfl
@[simp] theorem setInputFlags_f_z (v : Byte) : (s.setInputFlags v).f.z = zeroOf v := rfl
@[simp] theorem setInputFlags_f_h (v : Byte) : (s.setInputFlags v).f.h = false := rfl
@[simp] theorem setInputFlags_f_pv (v : Byte) : (s.setInputFlags v).f.pv = parityEven v := by
  simp only [State.setInputFlags]
@[simp] theorem setInputFlags_f_n (v : Byte) : (s.setInputFlags v).f.n = false := rfl
@[simp] theorem setInputFlags_f_c (v : Byte) : (s.setInputFlags v).f.c = s.f.c := rfl
@[simp] theorem setBlockFlags_f_z (v : Byte) : (s.setBlockFlags v).f.z = zeroOf v := rfl
@[simp] theorem setBlockFlags_f_n (v : Byte) : (s.setBlockFlags v).f.n = true := rfl
@[simp] theorem setBlockFlags_f_c (v : Byte) : (s.setBlockFlags v).f.c = s.f.c := rfl

/-- F survives the way through its byte (R21). -/
@[simp] theorem ofByte_toByte (f : Flags) : Flags.ofByte f.toByte = f := by
  rcases f with ⟨_ | _, _ | _, _ | _, _ | _, _ | _, _ | _, _ | _, _ | _⟩ <;> rfl

end Sys2Proof.Machine
end

