-- ==== Sys2Proof/Laws/Memory.lean ====
section
/-!
SUPPORT. The laws of memory: a byte written is read back, every other byte is left alone, and every operation
keeps the canonical form.
-/

namespace Sys2Proof.Machine

/-! ### Lists of cells -/

theorem read_erase_same (m : Memory) (a : Nat) : Memory.read (Memory.erase m a) a = Memory.unlisted := by
  induction m with
  | nil => rfl
  | cons x m ih =>
    obtain ⟨k, v⟩ := x
    by_cases h : a = k
    · simp [Memory.erase, h]; exact h ▸ ih
    · simp [Memory.erase, Memory.read, h, ih]

theorem read_erase_other {a b : Nat} (hab : b ≠ a) (m : Memory) :
    Memory.read (Memory.erase m a) b = Memory.read m b := by
  induction m with
  | nil => rfl
  | cons x m ih =>
    obtain ⟨k, v⟩ := x
    by_cases h : a = k
    · have hb : b ≠ k := h ▸ hab
      simp [Memory.erase, Memory.read, h, hb]; exact h ▸ ih
    · by_cases hb : b = k <;> simp [Memory.erase, Memory.read, h, hb, ih]

theorem mem_erase {m : Memory} {a : Nat} {x : Host.Cell} (h : x ∈ Memory.erase m a) : x ∈ m ∧ x.1 ≠ a := by
  induction m with
  | nil => simp [Memory.erase] at h
  | cons y m ih =>
    obtain ⟨k, v⟩ := y
    by_cases hk : a = k
    · rw [Memory.erase, if_pos hk] at h
      exact ⟨List.mem_cons_of_mem _ (ih h).1, (ih h).2⟩
    · rw [Memory.erase, if_neg hk, List.mem_cons] at h
      rcases h with rfl | h
      · exact ⟨List.mem_cons_self, fun e => hk e.symm⟩
      · exact ⟨List.mem_cons_of_mem _ (ih h).1, (ih h).2⟩

theorem read_insert_same (m : Memory) (a : Nat) (v : Byte) (h : ∀ x ∈ m, x.1 ≠ a) :
    Memory.read (Memory.insert m a v) a = v := by
  induction m with
  | nil => simp [Memory.insert, Memory.read]
  | cons x m ih =>
    obtain ⟨k, w⟩ := x
    have hk : a ≠ k := fun e => h (k, w) List.mem_cons_self e.symm
    by_cases hlt : a < k
    · simp [Memory.insert, Memory.read, hlt]
    · simp [Memory.insert, Memory.read, hlt, hk, ih fun y hy => h y (List.mem_cons_of_mem _ hy)]

theorem read_insert_other {a b : Nat} (hab : b ≠ a) (m : Memory) (v : Byte) :
    Memory.read (Memory.insert m a v) b = Memory.read m b := by
  induction m with
  | nil => simp [Memory.insert, Memory.read, hab]
  | cons x m ih =>
    obtain ⟨k, w⟩ := x
    by_cases hlt : a < k
    · simp [Memory.insert, Memory.read, hlt, hab]
    · by_cases hb : b = k <;> simp [Memory.insert, Memory.read, hlt, hb, ih]

/-- A byte written is read back. -/
theorem read_write_same (m : Memory) (a : Nat) (v : Byte) : Memory.read (Memory.write m a v) a = v := by
  unfold Memory.write
  split
  · rename_i h; rw [read_erase_same, h]
  · exact read_insert_same _ _ _ fun x hx => (mem_erase hx).2

/-- A write leaves every other byte alone. -/
theorem read_write_other {a b : Nat} (hab : b ≠ a) (m : Memory) (v : Byte) :
    Memory.read (Memory.write m a v) b = Memory.read m b := by
  unfold Memory.write
  split
  · exact read_erase_other hab m
  · rw [read_insert_other hab, read_erase_other hab]

/-! ### The canonical form -/

theorem erase_pairwise {m : Memory} (h : m.Pairwise fun x y => x.1 < y.1) (a : Nat) :
    (Memory.erase m a).Pairwise fun x y => x.1 < y.1 := by
  induction m with
  | nil => exact List.Pairwise.nil
  | cons x m ih =>
    obtain ⟨k, v⟩ := x
    rw [List.pairwise_cons] at h
    by_cases hk : a = k
    · simpa [Memory.erase, hk] using hk ▸ ih h.2
    · rw [Memory.erase, if_neg hk, List.pairwise_cons]
      exact ⟨fun y hy => h.1 y (mem_erase hy).1, ih h.2⟩

theorem mem_insert {m : Memory} {a : Nat} {v : Byte} {x : Host.Cell} (h : x ∈ Memory.insert m a v) :
    x = (a, v) ∨ x ∈ m := by
  induction m with
  | nil => simpa [Memory.insert] using h
  | cons y m ih =>
    obtain ⟨k, w⟩ := y
    by_cases hlt : a < k
    · simpa [Memory.insert, hlt] using h
    · rw [Memory.insert, if_neg hlt, List.mem_cons] at h
      rcases h with rfl | h
      · exact .inr List.mem_cons_self
      · exact (ih h).imp_right (List.mem_cons_of_mem _)

theorem insert_pairwise {m : Memory} (h : m.Pairwise fun x y => x.1 < y.1) {a : Nat}
    (ha : ∀ x ∈ m, x.1 ≠ a) (v : Byte) : (Memory.insert m a v).Pairwise fun x y => x.1 < y.1 := by
  induction m with
  | nil => simp [Memory.insert]
  | cons x m ih =>
    obtain ⟨k, w⟩ := x
    have hm := List.pairwise_cons.1 h
    by_cases hlt : a < k
    · rw [Memory.insert, if_pos hlt, List.pairwise_cons]
      refine ⟨fun y hy => ?_, h⟩
      rcases List.mem_cons.1 hy with rfl | hy
      · exact hlt
      · exact hlt.trans (hm.1 y hy)
    · rw [Memory.insert, if_neg hlt, List.pairwise_cons]
      refine ⟨fun y hy => ?_, ih hm.2 fun y hy => ha y (List.mem_cons_of_mem _ hy)⟩
      rcases mem_insert hy with rfl | hy
      · have := ha (k, w) List.mem_cons_self
        simp only at this ⊢
        omega
      · exact hm.1 y hy

/-- Every write keeps the canonical form. -/
theorem write_wf {m : Memory} (h : Memory.wf m) {a : Nat} (ha : a < 65536) (v : Byte) :
    Memory.wf (Memory.write m a v) := by
  unfold Memory.write
  split
  · exact ⟨erase_pairwise h.1 a, fun x hx => h.2 x (mem_erase hx).1⟩
  · rename_i hv
    refine ⟨insert_pairwise (erase_pairwise h.1 a) (fun x hx => (mem_erase hx).2) v, fun x hx => ?_⟩
    rcases mem_insert hx with rfl | hx
    · exact ⟨ha, hv⟩
    · exact h.2 x (mem_erase hx).1

theorem reset_memory_wf : Memory.wf State.reset.mem := by decide

/-! ### Bytes of a state -/

theorem toNat_ne {a b : Word} (h : b ≠ a) : b.toNat ≠ a.toNat := fun e => h (BitVec.eq_of_toNat_eq e)

/-- A write to ram is read back (20_memory.md R54). -/
theorem byteAt_memWrite_same {s : State} {a : Word} (h : s.kindAt a = .ram) (v : Byte) :
    (s.memWrite a v).byteAt a = v := by
  simp only [State.byteAt, memWrite_mem, h, Memory.store, read_write_same]

/-- A write to rom or to an absent address changes nothing (R54). -/
theorem memWrite_of_not_ram {s : State} {a : Word} (h : s.kindAt a ≠ .ram) (v : Byte) : s.memWrite a v = s := by
  unfold State.memWrite Memory.store
  split
  · contradiction
  · rfl
  · rfl

/-- A write leaves every other address alone. -/
theorem byteAt_memWrite_other {s : State} {a b : Word} (h : b ≠ a) (v : Byte) :
    (s.memWrite a v).byteAt b = s.byteAt b := by
  simp only [State.byteAt, memWrite_mem]
  unfold Memory.store
  split
  · exact read_write_other (toNat_ne h) _ _
  · rfl
  · rfl

/-- A write keeps the canonical form, whatever the kind of the address. -/
theorem store_wf {m : Memory} (h : Memory.wf m) (k : MemKind) {a : Nat} (ha : a < 65536) (v : Byte) :
    Memory.wf (Memory.store m k a v) := by
  unfold Memory.store
  split
  · exact write_wf h ha v
  · exact h
  · exact h

/-- A write keeps the canonical form. -/
theorem memWrite_wf {s : State} (h : Memory.wf s.mem) (a : Word) (v : Byte) : Memory.wf (s.memWrite a v).mem :=
  store_wf h _ a.isLt v

/-- Placing a byte keeps the canonical form. -/
theorem place_wf {s : State} (h : Memory.wf s.mem) (a : Word) (v : Byte) : Memory.wf (s.place a v).mem := by
  have hp : (s.makePresent a).mem = s.mem := by
    unfold State.makePresent; split <;> rfl
  simp only [State.place, hp]
  exact write_wf h a.isLt v

/-- A read of present memory is the stored byte and changes nothing (R53, R67). -/
theorem memRead_of_present {s : State} {a : Word} (h : s.kindAt a ≠ .absent) : s.memRead a = (s.byteAt a, s) := by
  unfold State.memRead State.readByte MemKind.readDraws
  split <;> first | contradiction | simp_all

@[simp] theorem kindAt_of_memMap {s t : State} (h : t.memMap = s.memMap) (a : Word) : t.kindAt a = s.kindAt a := by
  simp only [State.kindAt, h]

@[simp] theorem byteAt_of_mem {s t : State} (h : t.mem = s.mem) (a : Word) : t.byteAt a = s.byteAt a := by
  simp only [State.byteAt, h]

end Sys2Proof.Machine
end

