-- ==== Sys2Proof/Laws/Ops.lean ====
section
/-!
SUPPORT. For each shared operation, what it can do, said once: the fields it changes and the values it leaves.
-/

namespace Sys2Proof.Machine

/-! ### Words and halves -/

@[simp] theorem hi_cat (x y : Byte) : hi (cat x y) = x := by
  have h : (x ++ y).extractLsb' 8 8 = x := by
    ext k hk
    simp only [BitVec.getElem_extractLsb', BitVec.getLsbD_append]
    simp [hk]
  exact h

@[simp] theorem lo_cat (x y : Byte) : lo (cat x y) = y := by
  have h : (x ++ y).extractLsb' 0 8 = y := by
    ext k hk
    simp only [BitVec.getElem_extractLsb', BitVec.getLsbD_append]
    simp [hk]
  exact h

@[simp] theorem cat_hi_lo (w : Word) : cat (hi w) (lo w) = w := by
  have h : ∀ v : BitVec (8 + 8), v.extractLsb' 8 8 ++ v.extractLsb' 0 8 = v := fun v => by
    ext k hk
    simp only [BitVec.getElem_append, BitVec.getElem_extractLsb']
    split
    · simp [BitVec.getLsbD_eq_getElem, hk]
    · rw [Nat.add_sub_cancel' (by omega), BitVec.getLsbD_eq_getElem]
  exact h w

theorem sub_two (w : Word) : w - 1#16 - 1#16 = w - 2#16 := by bv_omega

theorem add_two (w : Word) : w + 1#16 + 1#16 = w + 2#16 := by bv_omega

theorem sub_one_ne_sub_two (w : Word) : w - 1#16 ≠ w - 2#16 := by bv_omega

@[simp] theorem hl_setHL (s : State) (w : Word) : (s.setHL w).hl = w := cat_hi_lo w

/-! ### Memory access and fetch -/

/-- A fetch moves PC and changes nothing else but the counter of free values. -/
theorem fetchByte_snd (s : State) :
    s.fetchByte.2 = { s with pc := s.pc + 1#16, draws := s.fetchByte.2.draws } := rfl

theorem fetchByte_of_present {s : State} (h : s.Present s.pc) :
    s.fetchByte = (s.byteAt s.pc, { s with pc := s.pc + 1#16 }) := by
  simp only [State.fetchByte, memRead_of_present h]

/-- Fetching an instruction changes nothing but PC and the counter of free values. -/
theorem fetchInstr_frame {s t : State} {x : Instr} (h : fetchInstr s = .instr x t) :
    t = { s with pc := t.pc, draws := t.draws } := by
  unfold fetchInstr at h
  have h1 := fetchByte_snd s
  have h2 := fetchByte_snd s.fetchByte.2
  simp only at h
  split at h
  · simp only [Fetched.instr.injEq] at h
    rw [← h.2, h1]
  · cases h
  · split at h
    · simp only [Fetched.instr.injEq] at h
      rw [← h.2, h2, h1]
    · cases h

/-! ### The stack -/

/-- A pop moves SP two up and changes nothing else but the counter of free values. -/
theorem pop16_snd (s : State) :
    s.pop16.2 = { s with sp := s.sp + 2#16, draws := s.pop16.2.draws } := by
  simp only [State.pop16, memRead_sp, add_two]
  rfl

theorem pop16_of_present {s : State} (h0 : s.Present s.sp) (h1 : s.Present (s.sp + 1#16)) :
    s.pop16 = (cat (s.byteAt (s.sp + 1#16)) (s.byteAt s.sp), { s with sp := s.sp + 2#16 }) := by
  have h1' : ({ s with sp := s.sp + 1#16 } : State).kindAt (s.sp + 1#16) ≠ .absent := h1
  simp only [State.pop16, memRead_of_present h0, memRead_of_present h1', add_two]
  rfl

/-- The low byte popped is the byte at SP where that address holds storage. -/
theorem pop16_lo {s : State} (h : s.Present s.sp) : lo s.pop16.1 = s.byteAt s.sp := by
  simp only [State.pop16, memRead_of_present h, lo_cat]

/-- The high byte popped is the byte at SP+1 where that address holds storage. -/
theorem pop16_hi {s : State} (h : s.Present (s.sp + 1#16)) : hi s.pop16.1 = s.byteAt (s.sp + 1#16) := by
  have h' : ({ s with sp := s.sp + 1#16, draws := s.draws + MemKind.readDraws (s.kindAt s.sp) } : State).Present
      (s.sp + 1#16) := h
  simp only [State.pop16, hi_cat]
  exact congrArg Prod.fst (memRead_of_present h')

/-- `PC <- Pop16()` changes PC, SP and the counter of free values. -/
theorem popPc_eq (s : State) :
    s.popPc = { s with pc := s.pop16.1, sp := s.sp + 2#16, draws := s.popPc.draws } := by
  simp only [State.popPc]
  rw [pop16_snd]

/-- A push moves SP two down and changes nothing else but the stored bytes. -/
theorem push16_eq (s : State) (w : Word) :
    s.push16 w = { s with sp := s.sp - 2#16, mem := (s.push16 w).mem } := by
  simp only [State.push16, memWrite_sp, sub_two]
  rfl

theorem push16_high {s : State} (h : s.Writable (s.sp - 1#16)) (w : Word) :
    (s.push16 w).byteAt (s.sp - 1#16) = hi w := by
  have h' : ({ s with sp := s.sp - 1#16 } : State).kindAt (s.sp - 1#16) = .ram := h
  simp only [State.push16, memWrite_sp, sub_two]
  rw [byteAt_memWrite_other (sub_one_ne_sub_two s.sp)]
  exact byteAt_memWrite_same h' (hi w)

theorem push16_low {s : State} (h : s.Writable (s.sp - 2#16)) (w : Word) :
    (s.push16 w).byteAt (s.sp - 2#16) = lo w := by
  simp only [State.push16, memWrite_sp, sub_two]
  exact byteAt_memWrite_same (by exact h) (lo w)

theorem push16_other {s : State} {a : Word} (h1 : a ≠ s.sp - 1#16) (h2 : a ≠ s.sp - 2#16) (w : Word) :
    (s.push16 w).byteAt a = s.byteAt a := by
  simp only [State.push16, memWrite_sp, sub_two]
  rw [byteAt_memWrite_other h2]
  exact byteAt_memWrite_other (s := { s with sp := s.sp - 1#16 }) h1 (hi w)

theorem push16_wf {s : State} (h : Memory.wf s.mem) (w : Word) : Memory.wf (s.push16 w).mem := by
  simp only [State.push16]
  refine memWrite_wf ?_ _ _
  exact memWrite_wf (s := { s with sp := s.sp - 1#16 }) h _ _

/-! ### What popPc leaves alone -/

@[simp] theorem popPc_a (s : State) : s.popPc.a = s.a := by
  rw [popPc_eq]
@[simp] theorem popPc_b (s : State) : s.popPc.b = s.b := by
  rw [popPc_eq]
@[simp] theorem popPc_c (s : State) : s.popPc.c = s.c := by
  rw [popPc_eq]
@[simp] theorem popPc_d (s : State) : s.popPc.d = s.d := by
  rw [popPc_eq]
@[simp] theorem popPc_e (s : State) : s.popPc.e = s.e := by
  rw [popPc_eq]
@[simp] theorem popPc_h (s : State) : s.popPc.h = s.h := by
  rw [popPc_eq]
@[simp] theorem popPc_l (s : State) : s.popPc.l = s.l := by
  rw [popPc_eq]
@[simp] theorem popPc_f (s : State) : s.popPc.f = s.f := by
  rw [popPc_eq]
@[simp] theorem popPc_iff1 (s : State) : s.popPc.iff1 = s.iff1 := by
  rw [popPc_eq]
@[simp] theorem popPc_iff2 (s : State) : s.popPc.iff2 = s.iff2 := by
  rw [popPc_eq]
@[simp] theorem popPc_a' (s : State) : s.popPc.a' = s.a' := by
  rw [popPc_eq]
@[simp] theorem popPc_f' (s : State) : s.popPc.f' = s.f' := by
  rw [popPc_eq]
@[simp] theorem popPc_b' (s : State) : s.popPc.b' = s.b' := by
  rw [popPc_eq]
@[simp] theorem popPc_c' (s : State) : s.popPc.c' = s.c' := by
  rw [popPc_eq]
@[simp] theorem popPc_d' (s : State) : s.popPc.d' = s.d' := by
  rw [popPc_eq]
@[simp] theorem popPc_e' (s : State) : s.popPc.e' = s.e' := by
  rw [popPc_eq]
@[simp] theorem popPc_h' (s : State) : s.popPc.h' = s.h' := by
  rw [popPc_eq]
@[simp] theorem popPc_l' (s : State) : s.popPc.l' = s.l' := by
  rw [popPc_eq]
@[simp] theorem popPc_ix (s : State) : s.popPc.ix = s.ix := by
  rw [popPc_eq]
@[simp] theorem popPc_iy (s : State) : s.popPc.iy = s.iy := by
  rw [popPc_eq]
@[simp] theorem popPc_i (s : State) : s.popPc.i = s.i := by
  rw [popPc_eq]
@[simp] theorem popPc_r (s : State) : s.popPc.r = s.r := by
  rw [popPc_eq]
@[simp] theorem popPc_im (s : State) : s.popPc.im = s.im := by
  rw [popPc_eq]
@[simp] theorem popPc_mem (s : State) : s.popPc.mem = s.mem := by
  rw [popPc_eq]
@[simp] theorem popPc_memMap (s : State) : s.popPc.memMap = s.memMap := by
  rw [popPc_eq]
@[simp] theorem popPc_portBytes (s : State) : s.popPc.portBytes = s.portBytes := by
  rw [popPc_eq]
@[simp] theorem popPc_inputs (s : State) : s.popPc.inputs = s.inputs := by
  rw [popPc_eq]
@[simp] theorem popPc_chain (s : State) : s.popPc.chain = s.chain := by
  rw [popPc_eq]
@[simp] theorem popPc_nmiPending (s : State) : s.popPc.nmiPending = s.nmiPending := by
  rw [popPc_eq]
@[simp] theorem popPc_history (s : State) : s.popPc.history = s.history := by
  rw [popPc_eq]
@[simp] theorem popPc_endPc (s : State) : s.popPc.endPc = s.endPc := by
  rw [popPc_eq]

/-! ### What callFixed leaves alone -/

@[simp] theorem callFixed_a (s : State) (w : Word) : (s.callFixed w).a = s.a := rfl
@[simp] theorem callFixed_b (s : State) (w : Word) : (s.callFixed w).b = s.b := rfl
@[simp] theorem callFixed_c (s : State) (w : Word) : (s.callFixed w).c = s.c := rfl
@[simp] theorem callFixed_d (s : State) (w : Word) : (s.callFixed w).d = s.d := rfl
@[simp] theorem callFixed_e (s : State) (w : Word) : (s.callFixed w).e = s.e := rfl
@[simp] theorem callFixed_h (s : State) (w : Word) : (s.callFixed w).h = s.h := rfl
@[simp] theorem callFixed_l (s : State) (w : Word) : (s.callFixed w).l = s.l := rfl
@[simp] theorem callFixed_f (s : State) (w : Word) : (s.callFixed w).f = s.f := rfl
@[simp] theorem callFixed_iff1 (s : State) (w : Word) : (s.callFixed w).iff1 = s.iff1 := rfl
@[simp] theorem callFixed_iff2 (s : State) (w : Word) : (s.callFixed w).iff2 = s.iff2 := rfl
@[simp] theorem callFixed_a' (s : State) (w : Word) : (s.callFixed w).a' = s.a' := rfl
@[simp] theorem callFixed_f' (s : State) (w : Word) : (s.callFixed w).f' = s.f' := rfl
@[simp] theorem callFixed_b' (s : State) (w : Word) : (s.callFixed w).b' = s.b' := rfl
@[simp] theorem callFixed_c' (s : State) (w : Word) : (s.callFixed w).c' = s.c' := rfl
@[simp] theorem callFixed_d' (s : State) (w : Word) : (s.callFixed w).d' = s.d' := rfl
@[simp] theorem callFixed_e' (s : State) (w : Word) : (s.callFixed w).e' = s.e' := rfl
@[simp] theorem callFixed_h' (s : State) (w : Word) : (s.callFixed w).h' = s.h' := rfl
@[simp] theorem callFixed_l' (s : State) (w : Word) : (s.callFixed w).l' = s.l' := rfl
@[simp] theorem callFixed_ix (s : State) (w : Word) : (s.callFixed w).ix = s.ix := rfl
@[simp] theorem callFixed_iy (s : State) (w : Word) : (s.callFixed w).iy = s.iy := rfl
@[simp] theorem callFixed_i (s : State) (w : Word) : (s.callFixed w).i = s.i := rfl
@[simp] theorem callFixed_r (s : State) (w : Word) : (s.callFixed w).r = s.r := rfl
@[simp] theorem callFixed_im (s : State) (w : Word) : (s.callFixed w).im = s.im := rfl
@[simp] theorem callFixed_memMap (s : State) (w : Word) : (s.callFixed w).memMap = s.memMap := rfl
@[simp] theorem callFixed_portBytes (s : State) (w : Word) : (s.callFixed w).portBytes = s.portBytes := rfl
@[simp] theorem callFixed_inputs (s : State) (w : Word) : (s.callFixed w).inputs = s.inputs := rfl
@[simp] theorem callFixed_chain (s : State) (w : Word) : (s.callFixed w).chain = s.chain := rfl
@[simp] theorem callFixed_nmiPending (s : State) (w : Word) : (s.callFixed w).nmiPending = s.nmiPending := rfl
@[simp] theorem callFixed_history (s : State) (w : Word) : (s.callFixed w).history = s.history := rfl
@[simp] theorem callFixed_endPc (s : State) (w : Word) : (s.callFixed w).endPc = s.endPc := rfl
@[simp] theorem callFixed_draws (s : State) (w : Word) : (s.callFixed w).draws = s.draws := rfl

/-! ### What blockIn leaves alone -/

@[simp] theorem blockIn_a (s : State) (x : Dir) : (s.blockIn x).a = s.a := rfl
@[simp] theorem blockIn_c (s : State) (x : Dir) : (s.blockIn x).c = s.c := rfl
@[simp] theorem blockIn_d (s : State) (x : Dir) : (s.blockIn x).d = s.d := rfl
@[simp] theorem blockIn_e (s : State) (x : Dir) : (s.blockIn x).e = s.e := rfl
@[simp] theorem blockIn_pc (s : State) (x : Dir) : (s.blockIn x).pc = s.pc := rfl
@[simp] theorem blockIn_sp (s : State) (x : Dir) : (s.blockIn x).sp = s.sp := rfl
@[simp] theorem blockIn_iff1 (s : State) (x : Dir) : (s.blockIn x).iff1 = s.iff1 := rfl
@[simp] theorem blockIn_iff2 (s : State) (x : Dir) : (s.blockIn x).iff2 = s.iff2 := rfl
@[simp] theorem blockIn_a' (s : State) (x : Dir) : (s.blockIn x).a' = s.a' := rfl
@[simp] theorem blockIn_f' (s : State) (x : Dir) : (s.blockIn x).f' = s.f' := rfl
@[simp] theorem blockIn_b' (s : State) (x : Dir) : (s.blockIn x).b' = s.b' := rfl
@[simp] theorem blockIn_c' (s : State) (x : Dir) : (s.blockIn x).c' = s.c' := rfl
@[simp] theorem blockIn_d' (s : State) (x : Dir) : (s.blockIn x).d' = s.d' := rfl
@[simp] theorem blockIn_e' (s : State) (x : Dir) : (s.blockIn x).e' = s.e' := rfl
@[simp] theorem blockIn_h' (s : State) (x : Dir) : (s.blockIn x).h' = s.h' := rfl
@[simp] theorem blockIn_l' (s : State) (x : Dir) : (s.blockIn x).l' = s.l' := rfl
@[simp] theorem blockIn_ix (s : State) (x : Dir) : (s.blockIn x).ix = s.ix := rfl
@[simp] theorem blockIn_iy (s : State) (x : Dir) : (s.blockIn x).iy = s.iy := rfl
@[simp] theorem blockIn_i (s : State) (x : Dir) : (s.blockIn x).i = s.i := rfl
@[simp] theorem blockIn_r (s : State) (x : Dir) : (s.blockIn x).r = s.r := rfl
@[simp] theorem blockIn_im (s : State) (x : Dir) : (s.blockIn x).im = s.im := rfl
@[simp] theorem blockIn_memMap (s : State) (x : Dir) : (s.blockIn x).memMap = s.memMap := rfl
@[simp] theorem blockIn_inputs (s : State) (x : Dir) : (s.blockIn x).inputs = s.inputs := rfl
@[simp] theorem blockIn_chain (s : State) (x : Dir) : (s.blockIn x).chain = s.chain := rfl
@[simp] theorem blockIn_nmiPending (s : State) (x : Dir) : (s.blockIn x).nmiPending = s.nmiPending := rfl
@[simp] theorem blockIn_endPc (s : State) (x : Dir) : (s.blockIn x).endPc = s.endPc := rfl

/-! ### What blockOut leaves alone -/

@[simp] theorem blockOut_a (s : State) (x : Dir) : (s.blockOut x).a = s.a := rfl
@[simp] theorem blockOut_c (s : State) (x : Dir) : (s.blockOut x).c = s.c := rfl
@[simp] theorem blockOut_d (s : State) (x : Dir) : (s.blockOut x).d = s.d := rfl
@[simp] theorem blockOut_e (s : State) (x : Dir) : (s.blockOut x).e = s.e := rfl
@[simp] theorem blockOut_pc (s : State) (x : Dir) : (s.blockOut x).pc = s.pc := rfl
@[simp] theorem blockOut_sp (s : State) (x : Dir) : (s.blockOut x).sp = s.sp := rfl
@[simp] theorem blockOut_iff1 (s : State) (x : Dir) : (s.blockOut x).iff1 = s.iff1 := rfl
@[simp] theorem blockOut_iff2 (s : State) (x : Dir) : (s.blockOut x).iff2 = s.iff2 := rfl
@[simp] theorem blockOut_a' (s : State) (x : Dir) : (s.blockOut x).a' = s.a' := rfl
@[simp] theorem blockOut_f' (s : State) (x : Dir) : (s.blockOut x).f' = s.f' := rfl
@[simp] theorem blockOut_b' (s : State) (x : Dir) : (s.blockOut x).b' = s.b' := rfl
@[simp] theorem blockOut_c' (s : State) (x : Dir) : (s.blockOut x).c' = s.c' := rfl
@[simp] theorem blockOut_d' (s : State) (x : Dir) : (s.blockOut x).d' = s.d' := rfl
@[simp] theorem blockOut_e' (s : State) (x : Dir) : (s.blockOut x).e' = s.e' := rfl
@[simp] theorem blockOut_h' (s : State) (x : Dir) : (s.blockOut x).h' = s.h' := rfl
@[simp] theorem blockOut_l' (s : State) (x : Dir) : (s.blockOut x).l' = s.l' := rfl
@[simp] theorem blockOut_ix (s : State) (x : Dir) : (s.blockOut x).ix = s.ix := rfl
@[simp] theorem blockOut_iy (s : State) (x : Dir) : (s.blockOut x).iy = s.iy := rfl
@[simp] theorem blockOut_i (s : State) (x : Dir) : (s.blockOut x).i = s.i := rfl
@[simp] theorem blockOut_r (s : State) (x : Dir) : (s.blockOut x).r = s.r := rfl
@[simp] theorem blockOut_im (s : State) (x : Dir) : (s.blockOut x).im = s.im := rfl
@[simp] theorem blockOut_mem (s : State) (x : Dir) : (s.blockOut x).mem = s.mem := rfl
@[simp] theorem blockOut_memMap (s : State) (x : Dir) : (s.blockOut x).memMap = s.memMap := rfl
@[simp] theorem blockOut_portBytes (s : State) (x : Dir) : (s.blockOut x).portBytes = s.portBytes := rfl
@[simp] theorem blockOut_inputs (s : State) (x : Dir) : (s.blockOut x).inputs = s.inputs := rfl
@[simp] theorem blockOut_chain (s : State) (x : Dir) : (s.blockOut x).chain = s.chain := rfl
@[simp] theorem blockOut_nmiPending (s : State) (x : Dir) : (s.blockOut x).nmiPending = s.nmiPending := rfl
@[simp] theorem blockOut_endPc (s : State) (x : Dir) : (s.blockOut x).endPc = s.endPc := rfl

/-! ### The daisy chain and the environment's inputs -/

/-- One device raises a request: it becomes requesting if it was idle, and nothing else changes. -/
theorem raiseOne_getElem? (ch : Chain) (j k : Nat) :
    (Chain.raiseOne ch j)[k]? = if k = j ∧ ch[k]? = some .idle then some .requesting else ch[k]? := by
  induction ch generalizing j k with
  | nil => simp [Chain.raiseOne]
  | cons d ch ih =>
    cases j with
    | zero => cases d <;> cases k <;> simp [Chain.raiseOne]
    | succ j => cases d <;> cases k <;> simp [Chain.raiseOne, ih]

/-- A fetch does not read the environment's inputs. -/
theorem fetchInstr_inputs (s : State) (ys : List PlatformInput) :
    fetchInstr { s with inputs := ys } = match fetchInstr s with
      | .instr x t => .instr x { t with inputs := ys }
      | .unspecified bytes => .unspecified bytes := by
  have h : ∀ u : State, ({ u with inputs := ys } : State).fetchByte =
      (u.fetchByte.1, { u.fetchByte.2 with inputs := ys }) := fun _ => rfl
  unfold fetchInstr
  simp only [h]
  cases decodeFirst s.fetchByte.1 with
  | done x => rfl
  | unspecified => rfl
  | more k =>
    simp only
    cases decodeSecond k s.fetchByte.2.fetchByte.1 <;> rfl

/-! ### What the shared operations do, as claims state it -/

/-- `PC <- Pop16()`, everything it does (20_memory.md R51). -/
theorem popPc_pops (s : State) : s.PopsPc s.popPc :=
  ⟨by rw [popPc_eq], fun h => pop16_lo h, fun h => pop16_hi h, fun x => by simp only [State.byteAt, popPc_mem]⟩

/-- A call to a fixed address, everything it does (R52). -/
theorem callFixed_calls (s : State) (w : Word) : s.CallsFixed (s.callFixed w) w := by
  have hb : ∀ x, (s.callFixed w).byteAt x = (s.push16 s.pc).byteAt x := fun _ => rfl
  refine ⟨?_, ?_, ?_, fun x h1 h2 => push16_other h1 h2 s.pc⟩
  · rw [State.callFixed, push16_eq]
  · rw [hb]
    split
    · rename_i h; exact push16_high h _
    · rename_i h
      simp only [State.push16, memWrite_sp, sub_two]
      rw [byteAt_memWrite_other (sub_one_ne_sub_two s.sp), memWrite_of_not_ram (by exact h)]
      rfl
  · rw [hb]
    split
    · rename_i h; exact push16_low h _
    · rename_i h
      simp only [State.push16, memWrite_sp, sub_two]
      rw [memWrite_of_not_ram (by exact h)]
      exact byteAt_memWrite_other (s := { s with sp := s.sp - 1#16 }) (sub_one_ne_sub_two s.sp).symm _

/-- One block input, everything it does (41_input.md R136). -/
theorem blockIn_transfers (s : State) (x : Dir) : s.TransfersIn (s.blockIn x) (x.move s.hl) s.pc := by
  have hb : ∀ y, (s.blockIn x).byteAt y = (s.memWrite s.hl (s.portByte (cat s.b s.c))).byteAt y := fun _ => rfl
  refine ⟨rfl, cat_hi_lo _, ⟨beq_eq_decide .., rfl, rfl⟩, ?_, fun y hy => ?_⟩
  · rw [hb]
    split
    · rename_i h; exact byteAt_memWrite_same h _
    · rename_i h; rw [memWrite_of_not_ram h]
  · rw [hb]; exact byteAt_memWrite_other hy _

/-- One block output, everything it does (42_output.md R156). -/
theorem blockOut_transfers (s : State) (x : Dir) :
    s.TransfersOut (s.blockOut x) (s.readByte s.hl) (x.move s.hl) s.pc :=
  ⟨rfl, fun h => congrArg Prod.fst (memRead_of_present h), cat_hi_lo _, ⟨beq_eq_decide .., rfl, rfl⟩, fun _ => rfl⟩

/-! ### Fetching is decoding -/

/-- The first byte decides the length of what it completes (30_encoding.md R80). -/
theorem size_of_decodeFirst {b : Byte} {x : Instr} (h : decodeFirst b = .done x) : x.size = 1 := by
  have key : ∀ b : Byte, (match decodeFirst b with
    | .done x => x.size == 1
    | .more _ => true
    | .unspecified => true) = true := by decide
  have := key b
  rw [h] at this
  simpa using this

theorem size_of_decodeSecond {k : Lead} {b : Byte} {x : Instr} (h : decodeSecond k b = some x) : x.size = 2 := by
  have key : ∀ b : Byte, (match decodeEd b with
    | some x => x.size == 2
    | none => true) = true := by decide
  cases k with
  | inA => cases h; rfl
  | outA => cases h; rfl
  | ed =>
    have := key b
    rw [show decodeEd b = some x from h] at this
    simpa using this

/-- Fetching from present memory is decoding the two bytes there, with PC past those the instruction has. -/
theorem fetchInstr_of_present {s : State} (h0 : s.Present s.pc) (h1 : s.Present (s.pc + 1#16)) :
    fetchInstr s = match decode [s.byteAt s.pc, s.byteAt (s.pc + 1#16)] with
      | .instr x _ => .instr x { s with pc := s.pc + BitVec.ofNat 16 x.size }
      | .unspecified bytes => .unspecified bytes
      | .truncated => .unspecified [] := by
  have h1' : ({ s with pc := s.pc + 1#16 } : State).Present (s.pc + 1#16) := h1
  have hb : ({ s with pc := s.pc + 1#16 } : State).byteAt (s.pc + 1#16) = s.byteAt (s.pc + 1#16) := rfl
  unfold fetchInstr decode
  simp only [fetchByte_of_present h0]
  cases hd : decodeFirst (s.byteAt s.pc) with
  | done x => simp [size_of_decodeFirst hd]
  | unspecified => rfl
  | more k =>
    simp only [fetchByte_of_present h1', hb]
    cases hd' : decodeSecond k (s.byteAt (s.pc + 1#16)) with
    | none => rfl
    | some x => simp [size_of_decodeSecond hd', add_two]

/-! ### Boundaries and steps -/

/-- At a boundary where the next instruction is fetched, the step is what the fetch gives. -/
theorem step_of_fetches {s : State} (h : s.Fetches) :
    step s = match fetchInstr s with
      | .instr x t => afterStep (exec x t)
      | .unspecified bytes => .refused (.unspecifiedEncoding bytes) := by
  obtain ⟨h1, h2, h3⟩ := h
  unfold step
  rw [h1, h2, h3]
  rfl

/-- What a step that goes on can be: the entry of a non-maskable interrupt, or one instruction; and then the
inputs are latched. -/
theorem step_cases {s t : State} (h : step s = .next t) :
    (s.nmiPending = true ∧ s.iff1 = s.iff2 ∧ t = s.nmiEntry.latchInputs) ∨
    ∃ x u v, s.Fetches ∧ fetchInstr s = .instr x u ∧ exec x u = .next v ∧ t = v.latchInputs := by
  unfold step at h
  split at h
  · cases h
  rename_i hend
  split at h
  · rename_i hnmi
    unfold takeNmi at h
    split at h
    · rename_i hiff
      simp only [afterStep, Host.Outcome.next.injEq] at h
      exact .inl ⟨hnmi, hiff, h.symm⟩
    · cases h
  rename_i hnmi
  split at h
  · cases h
  rename_i hmask
  split at h
  · rename_i x u hf
    cases hx : exec x u with
    | next v =>
      rw [hx] at h
      simp only [afterStep, Host.Outcome.next.injEq] at h
      exact .inr ⟨x, u, v, ⟨by simpa using hend, by simpa using hnmi, by simpa using hmask⟩, hf, hx, h.symm⟩
    | fault r => rw [hx] at h; cases h
    | refused r => rw [hx] at h; cases h
  · cases h

end Sys2Proof.Machine
end

