-- ==== Sys2Proof/Laws/PerInstr.lean ====
section
/-!
SUPPORT. Statements about every instruction as syntax, one lemma per constructor.

`FirstByteDecidesLength`: the bytes of an instruction are as many as its size, and the first of them alone says
how many (30_encoding.md R80).
-/

namespace Sys2Proof.Laws

/-- The length that a first byte announces (R80). -/
def lengthOfFirst (b0 : Byte) : Nat := if b0 = 0xED#8 ∨ b0 = 0xDB#8 ∨ b0 = 0xD3#8 then 2 else 1

/-- The encoding has the instruction's size, and its first byte announces it. -/
def FirstByteDecidesLength.Statement (i : Instr) : Prop :=
  ∃ b0 bs, encode i = b0 :: bs ∧ (b0 :: bs).length = i.size ∧ lengthOfFirst b0 = i.size

theorem FirstByteDecidesLength.ret : FirstByteDecidesLength.Statement .ret :=
  ⟨_, _, rfl, rfl, by decide⟩

theorem FirstByteDecidesLength.retCc (cc : Cond) : FirstByteDecidesLength.Statement (.retCc cc) :=
  ⟨_, _, rfl, rfl, by cases cc <;> decide⟩

theorem FirstByteDecidesLength.reti : FirstByteDecidesLength.Statement .reti :=
  ⟨_, _, rfl, rfl, by decide⟩

theorem FirstByteDecidesLength.retn : FirstByteDecidesLength.Statement .retn :=
  ⟨_, _, rfl, rfl, by decide⟩

theorem FirstByteDecidesLength.rst (p : Byte) : FirstByteDecidesLength.Statement (.rst p) := by
  refine ⟨_, _, rfl, rfl, ?_⟩
  have h : ∀ t : BitVec 3, lengthOfFirst (0b11#2 ++ t ++ 0b111#3) = 1 := by decide
  exact h (restartCode p)

theorem FirstByteDecidesLength.inAN (n : Byte) : FirstByteDecidesLength.Statement (.inAN n) :=
  ⟨_, _, rfl, rfl, rfl⟩

theorem FirstByteDecidesLength.inRC (r : Reg) : FirstByteDecidesLength.Statement (.inRC r) :=
  ⟨_, _, rfl, rfl, rfl⟩

theorem FirstByteDecidesLength.ini : FirstByteDecidesLength.Statement .ini :=
  ⟨_, _, rfl, rfl, by decide⟩

theorem FirstByteDecidesLength.inir : FirstByteDecidesLength.Statement .inir :=
  ⟨_, _, rfl, rfl, by decide⟩

theorem FirstByteDecidesLength.ind : FirstByteDecidesLength.Statement .ind :=
  ⟨_, _, rfl, rfl, by decide⟩

theorem FirstByteDecidesLength.indr : FirstByteDecidesLength.Statement .indr :=
  ⟨_, _, rfl, rfl, by decide⟩

theorem FirstByteDecidesLength.outNA (n : Byte) : FirstByteDecidesLength.Statement (.outNA n) :=
  ⟨_, _, rfl, rfl, rfl⟩

theorem FirstByteDecidesLength.outCR (r : Reg) : FirstByteDecidesLength.Statement (.outCR r) :=
  ⟨_, _, rfl, rfl, rfl⟩

theorem FirstByteDecidesLength.outi : FirstByteDecidesLength.Statement .outi :=
  ⟨_, _, rfl, rfl, by decide⟩

theorem FirstByteDecidesLength.otir : FirstByteDecidesLength.Statement .otir :=
  ⟨_, _, rfl, rfl, by decide⟩

theorem FirstByteDecidesLength.outd : FirstByteDecidesLength.Statement .outd :=
  ⟨_, _, rfl, rfl, by decide⟩

theorem FirstByteDecidesLength.otdr : FirstByteDecidesLength.Statement .otdr :=
  ⟨_, _, rfl, rfl, by decide⟩

end Sys2Proof.Laws
end

