-- ==== Sys2Proof/Tests/Slice0.lean ====
section
/-!
SUPPORT. Tests of the model: expected results are those of spec/95_test_vectors.md, cited by its numbers, or worked out
by hand from the rule cited; and, for each statement with hypotheses, a state and operands that meet them.
-/

namespace Sys2Proof.Tests

open Sys2Proof.Machine

/-- The state after reset with PC and SP set and some bytes in memory, by rising address and none of them zero. -/
def machine (pc sp : Word) (bytes : Memory) : State := { State.reset with pc := pc, sp := sp, mem := bytes }

/-- Some of the next state, and nothing where the step stops. -/
def seen {α : Type} (o : Host.Outcome State Fault Refusal) (g : State → α) : Option α :=
  match o with
  | .next t => some (g t)
  | .fault _ => none
  | .refused _ => none

/-- The reason of a refusal. -/
def refusalOf (o : Host.Outcome State Fault Refusal) : Option Refusal :=
  match o with
  | .next _ => none
  | .fault _ => none
  | .refused r => some r

/-! ### Well-formedness -/

/-- 30_encoding.md R88: 05H is no restart operand, nor is 40H; 38H is one. -/
theorem test_wf_refuses_rst_operand :
    (Instr.rst 0x05#8).wellFormed = false ∧ (Instr.rst 0x40#8).wellFormed = false ∧
    (Instr.rst 0x38#8).wellFormed = true := by decide

/-! ### Decoding: words written out from the spec -/

/-- 95_test_vectors.md S18: "C9", 1100 1001. -/
theorem test_decode_ret : decode [0b11001001#8] = .instr .ret [] := by decide

/-- S21 and the box of R83, 11 ccc 000. -/
theorem test_decode_retCc :
    [0b11000000#8, 0b11001000#8, 0b11010000#8, 0b11011000#8, 0b11100000#8, 0b11101000#8, 0b11110000#8,
      0b11111000#8].map (fun v => decode [v]) =
    [Cond.nz, .z, .nc, .c, .po, .pe, .p, .m].map (fun cc => .instr (.retCc cc) []) := by decide

/-- S18: 1110 1101, 0100 1101. -/
theorem test_decode_reti : decode [0b11101101#8, 0b01001101#8] = .instr .reti [] := by decide

/-- S18: 1110 1101, 0100 0101. -/
theorem test_decode_retn : decode [0b11101101#8, 0b01000101#8] = .instr .retn [] := by decide

/-- S22 and the box 11 ttt 111. -/
theorem test_decode_rst :
    [0b11000111#8, 0b11001111#8, 0b11010111#8, 0b11011111#8, 0b11100111#8, 0b11101111#8, 0b11110111#8,
      0b11111111#8].map (fun v => decode [v]) =
    [0x00#8, 0x08#8, 0x10#8, 0x18#8, 0x20#8, 0x28#8, 0x30#8, 0x38#8].map (fun p => .instr (.rst p) []) := by decide

/-- S18: "DB", then the byte n (R84). -/
theorem test_decode_inAN : decode [0b11011011#8, 0b01011010#8] = .instr (.inAN 0x5A#8) [] := by decide

/-- S23 and the box 01 rrr 000 after EDH. -/
theorem test_decode_inRC :
    [0b01000000#8, 0b01001000#8, 0b01010000#8, 0b01011000#8, 0b01100000#8, 0b01101000#8, 0b01111000#8].map
      (fun v => decode [0b11101101#8, v]) =
    [Reg.b, .c, .d, .e, .h, .l, .a].map (fun r => .instr (.inRC r) []) := by decide

/-- S18: 1010 0010. -/
theorem test_decode_ini : decode [0b11101101#8, 0b10100010#8] = .instr .ini [] := by decide

/-- S18: 1011 0010. -/
theorem test_decode_inir : decode [0b11101101#8, 0b10110010#8] = .instr .inir [] := by decide

/-- S18: 1010 1010. -/
theorem test_decode_ind : decode [0b11101101#8, 0b10101010#8] = .instr .ind [] := by decide

/-- S18: 1011 1010. -/
theorem test_decode_indr : decode [0b11101101#8, 0b10111010#8] = .instr .indr [] := by decide

/-- Vector 2.1: D3 5A. -/
theorem test_decode_outNA : decode [0b11010011#8, 0b01011010#8] = .instr (.outNA 0x5A#8) [] := by decide

/-- S23 and the box 01 rrr 001 after EDH. -/
theorem test_decode_outCR :
    [0b01000001#8, 0b01001001#8, 0b01010001#8, 0b01011001#8, 0b01100001#8, 0b01101001#8, 0b01111001#8].map
      (fun v => decode [0b11101101#8, v]) =
    [Reg.b, .c, .d, .e, .h, .l, .a].map (fun r => .instr (.outCR r) []) := by decide

/-- Vector 2.1: ED A3. -/
theorem test_decode_outi : decode [0b11101101#8, 0b10100011#8] = .instr .outi [] := by decide

/-- Vector 2.1: ED B3. -/
theorem test_decode_otir : decode [0b11101101#8, 0b10110011#8] = .instr .otir [] := by decide

/-- S18: 1010 1011. -/
theorem test_decode_outd : decode [0b11101101#8, 0b10101011#8] = .instr .outd [] := by decide

/-- S18: 1011 1011. -/
theorem test_decode_otdr : decode [0b11101101#8, 0b10111011#8] = .instr .otdr [] := by decide

/-- Vector 2.1: first bytes that no page defines. -/
theorem test_decode_refuses_first_bytes :
    ∀ v ∈ [0x00#8, 0x3E#8, 0x76#8, 0xC3#8, 0xCD#8, 0xF3#8, 0xFB#8, 0xC1#8, 0xC5#8],
      decode [v, 0x00#8] = .unspecified [v] := by decide

/-- Vector 2.1: second bytes that no page defines, the r = 110 forms among them. -/
theorem test_decode_refuses_second_bytes :
    ∀ v ∈ [0x70#8, 0x71#8, 0x00#8, 0x44#8, 0x46#8, 0x4C#8, 0x55#8, 0x5D#8, 0xA0#8, 0xB0#8, 0xFF#8],
      decode [0xED#8, v] = .unspecified [0xED#8, v] := by decide

/-- The opcode table's own numbering, the first byte leftmost: match ED4D of RETI, C9 of RET, DB00 of IN A,(n). -/
theorem test_table_words :
    decodeTableWord 16 0xED4D = some .reti ∧ decodeTableWord 8 0xC9 = some .ret ∧
    decodeTableWord 16 0xDB00 = some (.inAN 0x00#8) ∧ decodeTableWord 16 0xED70 = none := by decide

/-- A placed word is what the very next step runs, also where reset memory would be refused: RST 18H, DFH. -/
theorem test_place_runs :
    seen (step (State.reset.withFetchWord 8 0xDF)) (fun t => t.pc) = some 0x0018#16 ∧
    seen (step (State.reset.withFetchWord 16 0xD301)) (fun t => t.history) = some [.ioWrite 0x0001#16 0x00#8] := by
  decide

/-- Vector 2.1: DB at FFFFH takes its operand from 0000H, and PC is 0001H afterwards (R17). -/
theorem test_fetch_wraps :
    seen (step { machine 0xFFFF#16 0#16 [(0, 0x34#8), (0xFFFF, 0xDB#8)] with a := 0x12#8, portBytes := [0x56#8] })
      (fun t => (t.pc, t.a, t.history)) = some (0x0001#16, 0x56#8, [.ioRead 0x1234#16 0x56#8]) := by decide

/-! ### Returns and restart -/

/-- S1. -/
theorem test_ret :
    seen (step (machine 0x3535#16 0x2000#16 [(0x2000, 0xB5#8), (0x2001, 0x18#8), (0x3535, 0xC9#8)]))
      (fun t => (t.pc, t.sp)) = some (0x18B5#16, 0x2002#16) := by decide

/-- Vector 2.2 row 1: the stack across the top of memory. -/
theorem test_ret_wraps :
    seen (exec .ret (machine 0x4001#16 0xFFFF#16 [(0x0000, 0x12#8), (0xFFFF, 0x34#8)])) (fun t => (t.pc, t.sp)) =
      some (0x1234#16, 0x0001#16) := by decide

/-- S2: RET M with S set. -/
theorem test_retCc_taken :
    seen (step { machine 0x3534#16 0x2000#16 [(0x2000, 0xB5#8), (0x2001, 0x18#8), (0x3534, 0xF8#8)] with
      f := { Flags.clear with s := true } }) (fun t => (t.pc, t.sp)) = some (0x18B5#16, 0x2002#16) := by decide

/-- Vector 2.3: with F = 00H the conditions NZ, NC, PO, P are met and the other four are not; with Z alone, Z, NC,
PO, P. -/
theorem test_retCc_conditions :
    [Cond.nz, .z, .nc, .c, .po, .pe, .p, .m].map (fun cc => seen (exec (.retCc cc)
      (machine 0x3535#16 0x2000#16 [(0x2000, 0xB5#8), (0x2001, 0x18#8)])) (fun t => t.sp)) =
      [some 0x2002#16, some 0x2000#16, some 0x2002#16, some 0x2000#16, some 0x2002#16, some 0x2000#16, some 0x2002#16,
        some 0x2000#16] ∧
    [Cond.nz, .z, .nc, .c, .po, .pe, .p, .m].map (fun cc => condHolds cc { Flags.clear with z := true }) =
      [false, true, true, false, true, false, true, false] := by decide

/-- Vector 2.4 rows 2 and 3: IFF1 becomes IFF2, with the completion signal. -/
theorem test_reti :
    seen (exec .reti { machine 0x0002#16 0x0FFE#16 [(0x0FFE, 0x45#8), (0x0FFF, 0x1A#8)] with iff2 := true })
      (fun t => (t.pc, t.sp, t.iff1, t.iff2, t.history)) = some (0x1A45#16, 0x1000#16, true, true, [.retiDone]) ∧
    seen (exec .reti { machine 0x0002#16 0x0FFE#16 [] with iff1 := true }) (fun t => (t.iff1, t.iff2)) =
      some (false, false) := by decide

/-- S3, from step 2 on: A (first) and B are under service; the first RETI is A's, the second B's. -/
theorem test_reti_daisy_chain :
    seen (exec .reti { machine 0#16 0#16 [] with chain := [.underService, .underService] }) (fun t => t.chain) =
      some [.idle, .underService] ∧
    seen (exec .reti { machine 0#16 0#16 [] with chain := [.idle, .underService] }) (fun t => t.chain) =
      some [.idle, .idle] := by decide

/-- Vector 2.4 row 5: no event. -/
theorem test_retn :
    seen (exec .retn { machine 0x0002#16 0x0FFE#16 [(0x0FFE, 0x45#8), (0x0FFF, 0x1A#8)] with iff2 := true })
      (fun t => (t.pc, t.sp, t.iff1, t.iff2, t.history)) = some (0x1A45#16, 0x1000#16, true, true, []) := by decide

/-- Vector 2.4 row 8. -/
theorem test_retn_wraps :
    seen (exec .retn { machine 0#16 0xFFFF#16 [(0xFFFF, 0x66#8)] with iff1 := true })
      (fun t => (t.pc, t.sp, t.iff1)) = some (0x0066#16, 0x0001#16, false) := by decide

/-- S5 with SP = 2000H: RST 18H at 15B2H. -/
theorem test_rst :
    seen (step (machine 0x15B2#16 0x2000#16 [(0x15B2, 0xDF#8)]))
      (fun t => (t.pc, t.sp, t.byteAt 0x1FFF#16, t.byteAt 0x1FFE#16)) =
      some (0x0018#16, 0x1FFE#16, 0x15#8, 0xB3#8) := by decide

/-- Vector 2.5 row 1: RST 08H at 1234H with SP = 0001H. -/
theorem test_rst_wraps :
    seen (step (machine 0x1234#16 0x0001#16 [(0x1234, 0xCF#8)]))
      (fun t => (t.pc, t.sp, t.byteAt 0x0000#16, t.byteAt 0xFFFF#16)) =
      some (0x0008#16, 0xFFFF#16, 0x12#8, 0x35#8) := by decide

/-! ### Input -/

/-- S6. -/
theorem test_inAN :
    seen (step { machine 0#16 0#16 [(0, 0xDB#8), (1, 0x01#8)] with a := 0x23#8, portBytes := [0x7B#8] })
      (fun t => (t.pc, t.a, t.history)) = some (0x0002#16, 0x7B#8, [.ioRead 0x2301#16 0x7B#8]) := by decide

/-- Vector 2.6 row 2: no flag is set by a zero byte. -/
theorem test_inAN_keeps_flags :
    seen (exec (.inAN 0x00#8) { machine 0#16 0#16 [] with portBytes := [0x00#8] }) (fun t => (t.a, t.f)) =
      some (0x00#8, Flags.clear) := by decide

/-- S7, with C set before. -/
theorem test_inRC :
    seen (step { machine 0#16 0#16 [(0, 0xED#8), (1, 0x50#8)] with
      b := 0x10#8, c := 0x07#8, portBytes := [0x7B#8], f := { Flags.clear with c := true, n := true, h := true } })
      (fun t => (t.d, [t.f.s, t.f.z, t.f.h, t.f.pv, t.f.n, t.f.c], t.history)) =
      some (0x7B#8, [false, false, false, true, false, true], [.ioRead 0x1007#16 0x7B#8]) := by decide

/-- Vector 2.7: S, Z, P/V of the ten data bytes; and row 1, IN B,(C), whose port has the old B. -/
theorem test_inRC_flags :
    [0x00#8, 0x01#8, 0x03#8, 0x51#8, 0x7B#8, 0x7F#8, 0x80#8, 0xA9#8, 0xFE#8, 0xFF#8].map
      (fun v => (signOf v, zeroOf v, parityEven v)) =
      [(false, true, true), (false, false, false), (false, false, true), (false, false, false), (false, false, true),
        (false, false, false), (true, false, false), (true, false, true), (true, false, false), (true, false, true)] ∧
    seen (exec (.inRC .b) { machine 0#16 0#16 [] with b := 0x10#8, c := 0x07#8, portBytes := [0x7B#8] })
      (fun t => (t.b, t.history)) = some (0x7B#8, [.ioRead 0x1007#16 0x7B#8]) := by decide

/-- The part of a state that the block vectors give. -/
structure BlockView where
  b : Byte
  hl : Word
  z : Bool
  n : Bool
  pc : Word
  history : List Event
  deriving DecidableEq, Repr

/-- That part of a state. -/
def blockView (t : State) : BlockView := ⟨t.b, t.hl, t.f.z, t.f.n, t.pc, t.history⟩

/-- S8. -/
theorem test_ini :
    seen (step { machine 0#16 0#16 [(0, 0xED#8), (1, 0xA2#8)] with
      b := 0x10#8, c := 0x07#8, h := 0x10#8, portBytes := [0x7B#8] }) (fun t => (blockView t, t.byteAt 0x1000#16)) =
      some (⟨0x0F#8, 0x1001#16, false, true, 0x0002#16, [.ioRead 0x1007#16 0x7B#8]⟩, 0x7B#8) := by decide

/-- Vector 2.8 rows 3 and 4: B = 00H counts on to FFH; HL = FFFFH wraps. -/
theorem test_ini_wraps :
    seen (exec .ini { machine 0#16 0#16 [] with c := 0x07#8, h := 0xFF#8, l := 0xFF#8, portBytes := [0x7B#8] })
      (fun t => (blockView t, t.byteAt 0xFFFF#16)) =
      some (⟨0xFF#8, 0x0000#16, false, true, 0x0000#16, [.ioRead 0x0007#16 0x7B#8]⟩, 0x7B#8) := by decide

/-- S9, its first iteration: PC is back at the INIR. -/
theorem test_inir_repeats :
    seen (step { machine 0x0200#16 0#16 [(0x0200, 0xED#8), (0x0201, 0xB2#8)] with
      b := 0x03#8, c := 0x07#8, h := 0x10#8, portBytes := [0x51#8, 0xA9#8, 0x03#8] })
      (fun t => (blockView t, t.byteAt 0x1000#16, t.portBytes)) =
      some (⟨0x02#8, 0x1001#16, false, true, 0x0200#16, [.ioRead 0x0307#16 0x51#8]⟩, 0x51#8,
        [0xA9#8, 0x03#8]) := by decide

/-- Vector 2.9 row 1: the last iteration. -/
theorem test_inir_ends :
    seen (step { machine 0x0200#16 0#16 [(0x0200, 0xED#8), (0x0201, 0xB2#8)] with
      b := 0x01#8, c := 0x07#8, h := 0x10#8, portBytes := [0x11#8] }) (fun t => (blockView t, t.byteAt 0x1000#16)) =
      some (⟨0x00#8, 0x1001#16, true, true, 0x0202#16, [.ioRead 0x0107#16 0x11#8]⟩, 0x11#8) := by decide

/-- S10 as corrected: HL = 0FFFH. -/
theorem test_ind :
    seen (step { machine 0#16 0#16 [(0, 0xED#8), (1, 0xAA#8)] with
      b := 0x10#8, c := 0x07#8, h := 0x10#8, portBytes := [0x7B#8] }) (fun t => (blockView t, t.byteAt 0x1000#16)) =
      some (⟨0x0F#8, 0x0FFF#16, false, true, 0x0002#16, [.ioRead 0x1007#16 0x7B#8]⟩, 0x7B#8) := by decide

/-- Vector 2.8 row 6. -/
theorem test_ind_wraps :
    seen (exec .ind { machine 0#16 0#16 [] with b := 0x01#8, c := 0x07#8, portBytes := [0x7B#8] })
      (fun t => (blockView t, t.byteAt 0x0000#16)) =
      some (⟨0x00#8, 0xFFFF#16, true, true, 0x0000#16, [.ioRead 0x0107#16 0x7B#8]⟩, 0x7B#8) := by decide

/-- S11, its first iteration. -/
theorem test_indr_repeats :
    seen (step { machine 0x0200#16 0#16 [(0x0200, 0xED#8), (0x0201, 0xBA#8)] with
      b := 0x03#8, c := 0x07#8, h := 0x10#8, portBytes := [0x51#8] }) (fun t => (blockView t, t.byteAt 0x1000#16)) =
      some (⟨0x02#8, 0x0FFF#16, false, true, 0x0200#16, [.ioRead 0x0307#16 0x51#8]⟩, 0x51#8) := by decide

/-- S11, its last iteration: HL = 0FFDH. -/
theorem test_indr_ends :
    seen (step { machine 0x0200#16 0#16 [(0x0200, 0xED#8), (0x0201, 0xBA#8)] with
      b := 0x01#8, c := 0x07#8, h := 0x0F#8, l := 0xFE#8, portBytes := [0x03#8] })
      (fun t => (blockView t, t.byteAt 0x0FFE#16)) =
      some (⟨0x00#8, 0x0FFD#16, true, true, 0x0202#16, [.ioRead 0x0107#16 0x03#8]⟩, 0x03#8) := by decide

/-! ### Output -/

/-- S12. -/
theorem test_outNA :
    seen (step { machine 0#16 0#16 [(0, 0xD3#8), (1, 0x01#8)] with a := 0x23#8 })
      (fun t => (t.pc, t.a, t.history)) = some (0x0002#16, 0x23#8, [.ioWrite 0x2301#16 0x23#8]) := by decide

/-- Vector 2.10 row 5. -/
theorem test_outCR :
    seen (step { machine 0#16 0#16 [(0, 0xED#8), (1, 0x51#8)] with b := 0x10#8, c := 0x01#8, d := 0x5A#8 })
      (fun t => (t.pc, t.history)) = some (0x0002#16, [.ioWrite 0x1001#16 0x5A#8]) := by decide

/-- Vector 2.10 row 9: a zero byte sets no flag. -/
theorem test_outCR_keeps_flags :
    seen (exec (.outCR .a) { machine 0#16 0#16 [] with b := 0x10#8, c := 0x01#8 }) (fun t => (t.f, t.history)) =
      some (Flags.clear, [.ioWrite 0x1001#16 0x00#8]) := by decide

/-- S14: the high address byte is B - 1. -/
theorem test_outi :
    seen (step { machine 0#16 0#16 [(0, 0xED#8), (1, 0xA3#8), (0x1000, 0x59#8)] with
      b := 0x10#8, c := 0x07#8, h := 0x10#8 }) blockView =
      some ⟨0x0F#8, 0x1001#16, false, true, 0x0002#16, [.ioWrite 0x0F07#16 0x59#8]⟩ := by decide

/-- Vector 2.11 row 3: B = 00H. -/
theorem test_outi_b_zero :
    seen (exec .outi { machine 0#16 0#16 [(0x1000, 0x59#8)] with c := 0x07#8, h := 0x10#8 }) blockView =
      some ⟨0xFF#8, 0x1001#16, false, true, 0x0000#16, [.ioWrite 0xFF07#16 0x59#8]⟩ := by decide

/-- S15, its first iteration. -/
theorem test_otir_repeats :
    seen (step { machine 0x0300#16 0#16 [(0x0300, 0xED#8), (0x0301, 0xB3#8), (0x1000, 0x51#8)] with
      b := 0x03#8, c := 0x07#8, h := 0x10#8 }) blockView =
      some ⟨0x02#8, 0x1001#16, false, true, 0x0300#16, [.ioWrite 0x0207#16 0x51#8]⟩ := by decide

/-- Vector 2.12 row 1. -/
theorem test_otir_ends :
    seen (step { machine 0x0300#16 0#16 [(0x0300, 0xED#8), (0x0301, 0xB3#8), (0x1000, 0x11#8)] with
      b := 0x01#8, c := 0x07#8, h := 0x10#8 }) blockView =
      some ⟨0x00#8, 0x1001#16, true, true, 0x0302#16, [.ioWrite 0x0007#16 0x11#8]⟩ := by decide

/-- S16. -/
theorem test_outd :
    seen (step { machine 0#16 0#16 [(0, 0xED#8), (1, 0xAB#8), (0x1000, 0x59#8)] with
      b := 0x10#8, c := 0x07#8, h := 0x10#8 }) blockView =
      some ⟨0x0F#8, 0x0FFF#16, false, true, 0x0002#16, [.ioWrite 0x0F07#16 0x59#8]⟩ := by decide

/-- Vector 2.11 row 6. -/
theorem test_outd_wraps :
    seen (exec .outd { machine 0#16 0#16 [(0x0000, 0x66#8)] with b := 0x01#8, c := 0x07#8 }) blockView =
      some ⟨0x00#8, 0xFFFF#16, true, true, 0x0000#16, [.ioWrite 0x0007#16 0x66#8]⟩ := by decide

/-- Vector 2.12 row 5, its first iteration: it sends its own second byte. -/
theorem test_otdr_repeats :
    seen (step { machine 0x0300#16 0#16 [(0x0300, 0xED#8), (0x0301, 0xBB#8)] with
      b := 0x02#8, c := 0x07#8, h := 0x03#8, l := 0x01#8 }) blockView =
      some ⟨0x01#8, 0x0300#16, false, true, 0x0300#16, [.ioWrite 0x0107#16 0xBB#8]⟩ := by decide

/-- S17, its last iteration. -/
theorem test_otdr_ends :
    seen (step { machine 0x0300#16 0#16 [(0x0300, 0xED#8), (0x0301, 0xBB#8), (0x0FFE, 0x51#8)] with
      b := 0x01#8, c := 0x07#8, h := 0x0F#8, l := 0xFE#8 }) blockView =
      some ⟨0x00#8, 0x0FFD#16, true, true, 0x0302#16, [.ioWrite 0x0007#16 0x51#8]⟩ := by decide

/-! ### Boundaries -/

/-- Vector 2.13 row 1. -/
theorem test_nmi_entry :
    seen (step { machine 0x1A45#16 0x1000#16 [] with iff1 := true, iff2 := true, nmiPending := true })
      (fun t => ([t.byteAt 0x0FFF#16, t.byteAt 0x0FFE#16], [t.sp, t.pc], [t.iff1, t.iff2, t.nmiPending])) =
      some ([0x1A#8, 0x45#8], [0x0FFE#16, 0x0066#16], [false, true, false]) := by decide

/-- Vector 2.13 rows 4 and 5. -/
theorem test_nmi_nested_is_refused :
    refusalOf (step { machine 0#16 0#16 [] with iff2 := true, nmiPending := true }) = some .nestedNmi ∧
    refusalOf (step { machine 0#16 0#16 [] with iff1 := true, nmiPending := true }) = some .nestedNmi := by decide

/-- R186: refused while IFF1 = 1, left with the device while IFF1 = 0. -/
theorem test_maskable_request :
    refusalOf (step { machine 0#16 0#16 [(0, 0xD3#8)] with iff1 := true, chain := [.idle, .requesting] }) =
      some .maskableInterrupt ∧
    seen (step { machine 0#16 0#16 [(0, 0xD3#8)] with chain := [.idle, .requesting] }) (fun t => (t.pc, t.chain)) =
      some (0x0002#16, [.idle, .requesting]) := by decide

/-- P4 step 1: a request that fires during a step is latched at its end, and the step itself is unaffected. -/
theorem test_nmi_request_is_latched :
    seen (step { machine 0x1A43#16 0x1000#16 [(0x1A43, 0xDB#8), (0x1A44, 0x01#8)] with
      a := 0x10#8, portBytes := [0x55#8], inputs := [⟨true, []⟩] })
      (fun t => (t.a, t.pc, t.nmiPending, t.inputs)) = some (0x55#8, 0x1A45#16, true, []) := by decide

/-- R35 b, R183: a device that raises a request during a step is requesting after it; R189: RETI ends the service of the
first device before that, and the device ended may raise again. -/
theorem test_device_requests_are_latched :
    seen (step { machine 0#16 0#16 [(0, 0xD3#8)] with chain := [.idle, .idle], inputs := [⟨false, [1]⟩] })
      (fun t => t.chain) = some [.idle, .requesting] ∧
    seen (step { machine 0#16 0#16 [(0, 0xED#8), (1, 0x4D#8)] with
      chain := [.underService, .underService], inputs := [⟨false, [0, 1]⟩] })
      (fun t => t.chain) = some [.requesting, .underService] := by decide

/-- P5: the run stops at `end_pc`, before anything is fetched (R213). -/
theorem test_end_of_run : step { machine 0x1A45#16 0#16 [] with endPc := some 0x1A45#16 } = .fault .endOfRun := rfl

/-- R37: memory after reset reads 00H, which no page defines, so the step from reset is refused (R92). -/
theorem test_reset_step_is_refused : refusalOf (step State.reset) = some (.unspecifiedEncoding [0x00#8]) := by decide

/-! ### Memory and flags -/

/-- Vector 2.14 rows 1, 2 and 4; a byte of zero removes its entry. -/
theorem test_memory :
    (State.push16 (machine 0#16 0x2000#16 []) 0xABCD#16).mem = [(0x1FFE, 0xCD#8), (0x1FFF, 0xAB#8)] ∧
    (State.pop16 (machine 0#16 0x1FFE#16 [(0x1FFE, 0xCD#8), (0x1FFF, 0xAB#8)])).1 = 0xABCD#16 ∧
    (State.memWrite { machine 0#16 0#16 [] with memMap := [⟨0, 0x4000, .rom⟩] } 0x3FFF#16 0x55#8).mem = [] ∧
    (State.memWrite { machine 0#16 0#16 [] with memMap := [⟨0, 0x4000, .rom⟩] } 0x4000#16 0x55#8).mem =
      [(0x4000, 0x55#8)] ∧
    (State.memWrite (machine 0#16 0#16 [(0x10, 0x55#8)]) 0x0010#16 0x00#8).mem = [] := by decide

/-- S19: 120 + 105. S20: 127 - (-64). S25: the half carry, on 0FH + 01H and 10H - 01H. -/
theorem test_flag_chapter :
    overflowOfAdd 0x78#8 0x69#8 = true ∧ 0x78#8 + 0x69#8 = 0b11100001#8 ∧
    overflowOfSub 0x7F#8 0xC0#8 = true ∧ 0x7F#8 - 0xC0#8 = 0b10111111#8 ∧
    halfCarryOfAdd 0x0F#8 0x01#8 false = true ∧ halfBorrowOfSub 0x10#8 0x01#8 false = true := by decide

/-- R21: F & D7H of vector 2.7 for 80H with C set is 81H; and the view is a round trip on AAH. -/
theorem test_flag_byte :
    ({ Flags.clear with s := true, c := true } : Flags).toByte = 0x81#8 ∧ (Flags.ofByte 0xAA#8).toByte = 0xAA#8 := by
  decide

/-- The page of INIR and R221: n bytes take 21(n-1) + 16 T states; RET cc takes 5 or 11. -/
theorem test_timing :
    tStates .inir { machine 0#16 0#16 [] with b := 0x02#8 } = [4, 5, 3, 4, 5] ∧
    (tStates (.retCc .z) (machine 0#16 0#16 [])).sum = 5 ∧ timeNs .ret (machine 0#16 0#16 []) = 2500 := by decide

/-! ### States and operands that meet the hypotheses of each statement that has some -/

theorem test_hyp_DecodeEncodeRoundTrip : ∀ p ∈ [0x00#8, 0x38#8], (Instr.rst p).wellFormed = true := by decide

theorem test_hyp_DecodedBytesAreTheEncoding :
    decode [0xDB#8, 0x5A#8, 0xC9#8] = .instr (.inAN 0x5A#8) [0xC9#8] ∧
    decode [0xC9#8, 0x00#8] = .instr .ret [0x00#8] := by decide

theorem test_hyp_FirstByteDecidesLength :
    decode (0xED#8 :: [0xA2#8]) = .instr .ini [] ∧ decode (0xC9#8 :: [0xA2#8]) = .instr .ret [0xA2#8] := by decide

/-- An RST at 0 with the stack in ram, and nothing pending. -/
def atRst : State := machine 0x0000#16 0x2000#16 [(0x0000, 0xDF#8)]

/-- A state at an instruction of two bytes at FFFFH and 0000H. -/
def atTop (x y : Byte) : State := machine 0xFFFF#16 0x2000#16 [(0x0000, y), (0xFFFF, x)]

/-- A byte that no page defines at the last address that holds storage. -/
def atEdge : State := { machine 0xBFFF#16 0#16 [] with memMap := [⟨0xC000, 0x4000, .absent⟩] }

theorem test_hyp_UndecodedBytesAreRefused :
    (atEdge.Fetches ∧ atEdge.Present atEdge.pc ∧ ¬ atEdge.Present (atEdge.pc + 1#16) ∧
      decode [atEdge.byteAt atEdge.pc] ≠ .truncated ∧
      decode [atEdge.byteAt atEdge.pc, atEdge.byteAt (atEdge.pc + 1#16)] = .unspecified [0x00#8]) ∧
    (atTop 0xED#8 0xFF#8).Fetches ∧ decode [(atTop 0xED#8 0xFF#8).byteAt 0xFFFF#16] = .truncated ∧
    (atTop 0xED#8 0xFF#8).Present 0xFFFF#16 ∧ (atTop 0xED#8 0xFF#8).Present 0x0000#16 ∧
    decode [0xED#8, 0xFF#8] = .unspecified [0xED#8, 0xFF#8] := by decide

theorem test_hyp_RegisterCode110IsRefused :
    ∀ v ∈ [0x70#8, 0x71#8], (atTop 0xED#8 v).Fetches ∧ (atTop 0xED#8 v).Present 0xFFFF#16 ∧
      (atTop 0xED#8 v).Present 0x0000#16 ∧ (atTop 0xED#8 v).byteAt 0xFFFF#16 = 0xED#8 ∧
      (atTop 0xED#8 v).byteAt 0x0000#16 = v := by decide

theorem test_hyp_StepRunsTheDecodedInstruction :
    atRst.Fetches ∧ atRst.Present atRst.pc ∧ (Instr.rst 0x18#8).size = 1 ∧
    decode [atRst.byteAt atRst.pc, atRst.byteAt (atRst.pc + 1#16)] = .instr (.rst 0x18#8) [0x00#8] ∧
    (atTop 0xED#8 0x4D#8).Fetches ∧ (atTop 0xED#8 0x4D#8).Present 0xFFFF#16 ∧
    (atTop 0xED#8 0x4D#8).Present 0x0000#16 ∧ decode [0xED#8, 0x4D#8] = .instr .reti [] := by decide

/-- S4 at the moment the request is seen. -/
def atNmi : State := { machine 0x1A45#16 0x1000#16 [] with iff1 := true, iff2 := true, nmiPending := true }

theorem test_hyp_NmiEntryIsTaken :
    atNmi.runEnded = false ∧ atNmi.nmiPending = true ∧ atNmi.iff1 = atNmi.iff2 := by decide

theorem test_hyp_NestedNmiIsRefused :
    ({ atNmi with iff1 := false } : State).runEnded = false ∧ ({ atNmi with iff1 := false } : State).nmiPending = true ∧
    ({ atNmi with iff1 := false } : State).iff1 ≠ ({ atNmi with iff1 := false } : State).iff2 := by decide

theorem test_hyp_MaskableRequestsNeedIff1 :
    (({ atRst with iff1 := true, chain := [.requesting] } : State).runEnded = false ∧
      Chain.requests ({ atRst with iff1 := true, chain := [.requesting] } : State).chain = true) ∧
    (atRst.iff1 = false ∧ ∃ t, step atRst = .next t) ∧
    (∃ t, step { atRst with chain := [.requesting] } = .next t) :=
  ⟨by decide, ⟨by decide, _, rfl⟩, _, rfl⟩

theorem test_hyp_StepKeepsMemoryCanonical : atRst.Inv ∧ ∃ t, step atRst = .next t :=
  ⟨by decide, _, rfl⟩

/-- For NamedOnlyRegistersAreUntouched, CarryFlagNeverChanges, HistoryGrowsByAtMostOneEvent and
MemoryChangesOnlyAtStackOrHl: a step that goes on, and it does change the two bytes below SP (the high byte of the
pushed 0001H is the 00H that was there). -/
theorem test_hyp_steps :
    (∃ t, step atRst = .next t) ∧ seen (step atRst) (fun t => t.byteAt 0x1FFE#16) = some 0x01#8 ∧
    atRst.byteAt 0x1FFE#16 = 0x00#8 := ⟨⟨_, rfl⟩, by decide, by decide⟩

/-- Each way IFF1 can go: by NMI entry, by RETI and by RETN. -/
theorem test_hyp_InterruptFlipFlopsChangeOnlyByTheirRules :
    seen (step atNmi) (fun t => t.iff1) = some false ∧
    seen (step { atTop 0xED#8 0x4D#8 with iff2 := true }) (fun t => (t.iff1, t.iff2)) = some (true, true) ∧
    seen (step { atTop 0xED#8 0x45#8 with iff2 := true }) (fun t => (t.iff1, t.iff2)) = some (true, true) := by decide

theorem test_hyp_PortInstructionsIgnoreSp :
    Instr.outi ≠ .ret ∧ (∀ cc : Cond, Instr.outi ≠ .retCc cc) ∧ Instr.outi ≠ .reti ∧ Instr.outi ≠ .retn ∧
    (∀ p : Byte, Instr.outi ≠ .rst p) ∧ ∃ t, exec .outi atRst = .next t := by
  refine ⟨?_, fun _ => ?_, ?_, ?_, fun _ => ?_, _, rfl⟩ <;> exact nofun

/-- A step with and one without an input, a step that is no RETI and one that is. -/
theorem test_hyp_RequestsAreSampledAtTheNextBoundary :
    (atRst.inputs = [] ∧ ∃ t, step atRst = .next t) ∧
    (∃ t, step { atRst with inputs := [⟨true, [0]⟩], chain := [.idle] } = .next t) ∧
    (atTop 0xED#8 0x4D#8).nmiPending = false ∧ (∃ u, fetchInstr (atTop 0xED#8 0x4D#8) = .instr .reti u) ∧
    ∃ t, step (atTop 0xED#8 0x4D#8) = .next t :=
  ⟨⟨rfl, _, rfl⟩, ⟨_, rfl⟩, rfl, ⟨_, rfl⟩, _, rfl⟩

/-- A machine with rom below 4000H, ram up to C000H and nothing above. -/
def mapped : State := { machine 0x4000#16 0x8000#16 [] with memMap := [⟨0, 0x4000, .rom⟩, ⟨0xC000, 0x4000, .absent⟩] }

theorem test_hyp_WrittenByteIsReadUntilOverwritten :
    mapped.Writable 0x4000#16 ∧ mapped.Writable 0xBFFF#16 ∧ ¬ mapped.Writable 0x3FFF#16 ∧ ¬ mapped.Writable 0xC000#16 ∧
    mapped.pc = 0x4000#16 ∧ ∀ w ∈ [((0x4001#16 : Word), 0x55#8)], w.1 ≠ 0x4000#16 :=
  ⟨by decide, by decide, by decide, by decide, by decide, by simp⟩

theorem test_hyp_ReadReturnsStoredByteOrDraw :
    mapped.Present 0x3FFF#16 ∧ mapped.Present 0xBFFF#16 ∧ ¬ mapped.Present 0xC000#16 ∧ ¬ mapped.Present 0xFFFF#16 := by
  decide

theorem test_hyp_PopAfterPushGivesTheWordBack :
    mapped.Writable (mapped.sp - 1#16) ∧ mapped.Writable (mapped.sp - 2#16) := by decide

theorem test_hyp_StackWrapsAtBothEnds :
    (machine 0#16 0xFFFF#16 []).sp = 0xFFFF#16 ∧ (machine 0#16 0xFFFF#16 []).Present 0xFFFF#16 ∧
    (machine 0#16 0xFFFF#16 []).Present 0x0000#16 ∧ (machine 0#16 0x0001#16 []).sp = 0x0001#16 ∧
    (machine 0#16 0x0001#16 []).Writable 0x0000#16 ∧ (machine 0#16 0x0001#16 []).Writable 0xFFFF#16 := by decide

/-- A stack that holds storage, and one of which only the first byte does. -/
theorem test_hyp_RetPopsPc :
    mapped.Present mapped.sp ∧ mapped.Present (mapped.sp + 1#16) ∧
    ({ mapped with sp := 0xBFFF#16 } : State).Present 0xBFFF#16 ∧
    ¬ ({ mapped with sp := 0xBFFF#16 } : State).Present (0xBFFF#16 + 1#16) := by decide

theorem test_hyp_RetCcPopsPcOnlyIfTrue :
    condHolds .nz atRst.f = true ∧ condHolds .z atRst.f = false ∧ condHolds .p atRst.f = true ∧
    condHolds .m atRst.f = false := by decide

theorem test_hyp_RetComesBackFromRst :
    atRst.Writable (atRst.sp - 1#16) ∧ atRst.Writable (atRst.sp - 2#16) := by decide

theorem test_hyp_RetnComesBackFromNmi :
    atNmi.runEnded = false ∧ atNmi.nmiPending = true ∧ atNmi.iff1 = atNmi.iff2 ∧
    atNmi.Writable (atNmi.sp - 1#16) ∧ atNmi.Writable (atNmi.sp - 2#16) := by decide

/-- Both cases of the push: below 4000H nothing is stored (R54). -/
theorem test_hyp_RstPushesPcAndJumps :
    seen (exec (.rst 0x18#8) { mapped with sp := 0x4001#16 })
      (fun t => (t.byteAt 0x4000#16, t.byteAt 0x3FFF#16, t.sp, t.pc)) =
      some (0x40#8, 0x00#8, 0x3FFF#16, 0x0018#16) := by decide

/-- Both cases of the store: into rom nothing is stored (R54), the byte is read from the port all the same. -/
theorem test_hyp_IniTransfersOneByteIn :
    seen (exec .ini { mapped with h := 0x3F#8, l := 0xFF#8, portBytes := [0x7B#8] })
      (fun t => (t.hl, t.byteAt 0x3FFF#16, t.history)) =
      some (0x4000#16, 0x00#8, [.ioRead 0x0000#16 0x7B#8]) := by decide

/-- HL at storage and at no storage. -/
theorem test_hyp_OutiTransfersOneByteOut :
    ({ mapped with h := 0xBF#8, l := 0xFF#8 } : State).Present ({ mapped with h := 0xBF#8, l := 0xFF#8 } : State).hl ∧
    ¬ ({ mapped with h := 0xC0#8 } : State).Present ({ mapped with h := 0xC0#8 } : State).hl := by decide

theorem test_hyp_RepeatTakesAsManyIterationsAsB :
    repeats .inir = true ∧ repeats .indr = true ∧ repeats .otir = true ∧ repeats .otdr = true ∧
    iterations 0x00#8 = 256 ∧ iterations 0x01#8 = 1 ∧ iterations 0xFF#8 = 255 := by decide

/-- A block instruction at 0200H with HL = 1000H. -/
def atBlock (y b : Byte) (port : List Byte) : State :=
  { machine 0x0200#16 0x8000#16 [(0x0200, 0xED#8), (0x0201, y)] with b := b, c := 0x07#8, h := 0x10#8, portBytes := port }

theorem test_hyp_OtirStepsSendTheBlock :
    (atBlock 0xB3#8 0x00#8 []).Quiet ∧ (∀ x : Word, (atBlock 0xB3#8 0x00#8 []).Present x) ∧
    (atBlock 0xB3#8 0x00#8 []).byteAt 0x0200#16 = 0xED#8 ∧ (atBlock 0xB3#8 0x00#8 []).byteAt 0x0201#16 = 0xB3#8 :=
  ⟨by decide, fun _ => by exact nofun, by decide, by decide⟩

theorem test_hyp_InirStepsStoreTheBlock :
    (atBlock 0xB2#8 0x02#8 [0x11#8, 0x22#8]).Quiet ∧ (∀ x : Word, (atBlock 0xB2#8 0x02#8 [0x11#8, 0x22#8]).Writable x) ∧
    (atBlock 0xB2#8 0x02#8 [0x11#8, 0x22#8]).byteAt 0x0200#16 = 0xED#8 ∧
    (atBlock 0xB2#8 0x02#8 [0x11#8, 0x22#8]).byteAt 0x0201#16 = 0xB2#8 ∧ iterations 0x02#8 ≤ [0x11#8, 0x22#8].length ∧
    ∀ k : Nat, k < iterations 0x02#8 →
      (atBlock 0xB2#8 0x02#8 [0x11#8, 0x22#8]).hl + BitVec.ofNat 16 k ≠ 0x0200#16 ∧
      (atBlock 0xB2#8 0x02#8 [0x11#8, 0x22#8]).hl + BitVec.ofNat 16 k ≠ 0x0201#16 :=
  ⟨by decide, fun _ => rfl, by decide, by decide, by decide, by decide⟩

/-- Vector 2.9 rows 6 and 7: INIR at 1000H with HL = 1001H, over which the port puts A2H or 00H. -/
def overItself (v : Byte) : State :=
  { machine 0x1000#16 0x8000#16 [(0x1000, 0xED#8), (0x1001, 0xB2#8)] with
    b := 0x02#8, c := 0x07#8, h := 0x10#8, l := 0x01#8, portBytes := [v, 0x77#8] }

theorem test_hyp_InirOverItselfIsDecodedAnew :
    (∀ v : Byte, (overItself v).Quiet ∧ (∀ x : Word, (overItself v).Writable x) ∧
      (overItself v).byteAt 0x1000#16 = 0xED#8 ∧ (overItself v).byteAt 0x1001#16 = 0xB2#8 ∧
      (overItself v).hl = (overItself v).pc + 1#16 ∧ (overItself v).b ≠ 0x01#8 ∧
      (overItself v).portBytes = v :: [0x77#8]) ∧
    decode [0xED#8, 0xA2#8] = .instr .ini [] ∧ decode [0xED#8, 0x00#8] = .unspecified [0xED#8, 0x00#8] :=
  ⟨fun _ => ⟨⟨rfl, rfl, rfl, rfl⟩, fun _ => rfl, rfl, rfl,
    show cat 0x10#8 0x01#8 = 0x1000#16 + 1#16 by decide, by exact nofun, rfl⟩, by decide, by decide⟩

theorem test_hyp_DaisyChainServesByPriority :
    (∀ d ∈ ([.idle, .requesting] : Chain), d ≠ .underService) ∧
    Chain.requests ([.idle, .requesting] ++ .underService :: [.requesting]) = true ∧
    Chain.requests ([.idle] ++ .underService :: [.requesting]) = false := by decide

theorem test_hyp_TimingTable :
    repeats .otdr = true ∧ ({ atRst with b := 0x01#8 } : State).b - 1#8 = 0#8 ∧
    ({ atRst with b := 0x00#8 } : State).b - 1#8 ≠ 0#8 ∧ condHolds .nc atRst.f = true ∧
    condHolds .c atRst.f = false := by decide

end Sys2Proof.Tests
end

/-!
PROOFS of the statements of 10_state.md: what every step keeps, what it can change, and what reset leaves.

The shape of the part on steps: `exec_effect` says once what the seventeen meanings can leave, `step_effect` what a
whole step can; each invariant is then a short case analysis on these.
-/

namespace Sys2Proof.Proofs

open Sys2Proof Sys2Proof.Machine

/-! ### What a meaning and a step can do -/

/-- The states a meaning can leave, from a state with PC past its bytes. The outputs of one byte are one case, and so
are the four block inputs and the four block outputs: their PC is left open, since a repeat moves it (R133, R153). -/
inductive Effect (s : State) : Instr → State → Prop
  | ret : Effect s .ret s.popPc
  | retTaken (cc : Cond) (h : condHolds cc s.f = true) : Effect s (.retCc cc) s.popPc
  | retSkipped (cc : Cond) (h : condHolds cc s.f = false) : Effect s (.retCc cc) s
  | reti : Effect s .reti s.popPc.restoreIff1.signalRetiDone
  | retn : Effect s .retn s.popPc.restoreIff1
  | rst (p : Byte) : Effect s (.rst p) (s.callFixed (restartTarget p))
  | inputA (n : Byte) : Effect s (.inAN n) { (s.ioRead (s.portN n)).2 with a := s.portByte (s.portN n) }
  | inputReg (r : Reg) :
    Effect s (.inRC r) (((s.ioRead s.portC).2.setReg r (s.portByte s.portC)).setInputFlags (s.portByte s.portC))
  | output (x : Instr) (port : Word) (v : Byte) : Effect s x (s.ioWrite port v)
  | blockIn (x : Instr) (dir : Dir) (pc : Word) : Effect s x { s.blockIn dir with pc := pc }
  | blockOut (x : Instr) (dir : Dir) (pc : Word) : Effect s x { s.blockOut dir with pc := pc }

/-- Every meaning answers a next state, and that state is one of its effects. -/
theorem exec_effect (x : Instr) (s : State) : ∃ t, exec x s = .next t ∧ Effect s x t := by
  cases x with
  | ret => exact ⟨_, rfl, .ret⟩
  | retCc cc =>
    by_cases h : condHolds cc s.f = true
    · exact ⟨_, if_pos h, .retTaken cc h⟩
    · exact ⟨_, if_neg h, .retSkipped cc (by simpa using h)⟩
  | reti => exact ⟨_, rfl, .reti⟩
  | retn => exact ⟨_, rfl, .retn⟩
  | rst p => exact ⟨_, rfl, .rst p⟩
  | inAN n => exact ⟨_, rfl, .inputA n⟩
  | inRC r => exact ⟨_, rfl, .inputReg r⟩
  | outNA n => exact ⟨_, rfl, .output _ _ _⟩
  | outCR r => exact ⟨_, rfl, .output _ _ _⟩
  | ini => exact ⟨_, rfl, .blockIn _ .up _⟩
  | inir => exact ⟨_, rfl, .blockIn _ .up _⟩
  | ind => exact ⟨_, rfl, .blockIn _ .down _⟩
  | indr => exact ⟨_, rfl, .blockIn _ .down _⟩
  | outi => exact ⟨_, rfl, .blockOut _ .up _⟩
  | otir => exact ⟨_, rfl, .blockOut _ .up _⟩
  | outd => exact ⟨_, rfl, .blockOut _ .down _⟩
  | otdr => exact ⟨_, rfl, .blockOut _ .down _⟩

theorem effect_of_exec {x : Instr} {s t : State} (h : exec x s = .next t) : Effect s x t := by
  obtain ⟨t', ht', he⟩ := exec_effect x s
  cases ht'.symm.trans h
  exact he

/-- What a step that goes on leaves before the inputs are latched: the state of an NMI entry, or an effect of the
fetched instruction, from the state that differs by PC and the counter of free values. -/
theorem step_effect {s t : State} (h : step s = .next t) :
    (s.nmiPending = true ∧ t = s.nmiEntry.latchInputs) ∨
    ∃ (x : Instr) (pc : Word) (n : Nat) (v : State), fetchInstr s = .instr x { s with pc := pc, draws := n } ∧
      Effect { s with pc := pc, draws := n } x v ∧ t = v.latchInputs := by
  obtain ⟨hnmi, -, rfl⟩ | ⟨x, u, v, -, hf, hx, rfl⟩ := step_cases h
  · exact .inl ⟨hnmi, rfl⟩
  · have hu := fetchInstr_frame hf
    exact .inr ⟨x, u.pc, u.draws, v, hu ▸ hf, hu ▸ effect_of_exec hx, rfl⟩

/-! ### What the NMI entry leaves -/

@[simp] theorem nmiEntry_f (s : State) : s.nmiEntry.f = s.f := by simp [State.nmiEntry]
@[simp] theorem nmiEntry_iff1 (s : State) : s.nmiEntry.iff1 = false := by simp [State.nmiEntry]
@[simp] theorem nmiEntry_iff2 (s : State) : s.nmiEntry.iff2 = s.iff2 := by simp [State.nmiEntry]
@[simp] theorem nmiEntry_memMap (s : State) : s.nmiEntry.memMap = s.memMap := by simp [State.nmiEntry]
@[simp] theorem nmiEntry_history (s : State) : s.nmiEntry.history = s.history := by simp [State.nmiEntry]
@[simp] theorem nmiEntry_mem (s : State) : s.nmiEntry.mem = (s.push16 s.pc).mem := rfl

/-! ### Fields that no step changes -/

theorem Effect.carry {s t : State} {x : Instr} (h : Effect s x t) : t.f.c = s.f.c := by
  cases h with
  | blockIn _ dir pc =>
    obtain ⟨-, -, ⟨-, -, hcarry⟩, -⟩ := blockIn_transfers s dir
    exact hcarry
  | blockOut _ dir pc =>
    obtain ⟨-, -, -, ⟨-, -, hcarry⟩, -⟩ := blockOut_transfers s dir
    exact hcarry
  | _ => simp

theorem Effect.iff2 {s t : State} {x : Instr} (h : Effect s x t) : t.iff2 = s.iff2 := by
  cases h <;> simp

theorem Effect.memMap {s t : State} {x : Instr} (h : Effect s x t) : t.memMap = s.memMap := by
  cases h <;> simp

/-- Settles O17: no effect and no NMI entry touches the carry. -/
theorem carryFlagNeverChanges : Obligations.CarryFlagNeverChanges := by
  intro s t h
  obtain ⟨-, rfl⟩ | ⟨x, pc, n, v, -, he, rfl⟩ := step_effect h
  · simp
  · simpa using he.carry

/-! ### The flip-flops -/

/-- IFF1 is kept, or copied from IFF2 by a return from an interrupt (R30). -/
theorem Effect.iff1 {s t : State} {x : Instr} (h : Effect s x t) :
    t.iff1 = s.iff1 ∨ t.iff1 = s.iff2 ∧ (x = .reti ∨ x = .retn) := by
  cases h with
  | retn => exact .inr ⟨by simp, .inr rfl⟩
  | reti => exact .inr ⟨by simp, .inl rfl⟩
  | _ => exact .inl (by simp)

/-- Settles O18, by the two kinds of step. -/
theorem interruptFlipFlopsChangeOnlyByTheirRules : Obligations.InterruptFlipFlopsChangeOnlyByTheirRules := by
  intro s t h
  obtain ⟨hnmi, rfl⟩ | ⟨x, pc, n, v, hf, he, rfl⟩ := step_effect h
  · exact ⟨by simp, .inr (.inl ⟨hnmi, by simp⟩)⟩
  · rw [latchInputs_iff1, latchInputs_iff2]
    refine ⟨he.iff2, ?_⟩
    obtain hkeep | ⟨hcopy, rfl | rfl⟩ := he.iff1
    · exact .inl hkeep
    · exact .inr (.inr ⟨hcopy, _, .inl hf⟩)
    · exact .inr (.inr ⟨hcopy, _, .inr hf⟩)

/-! ### The history -/

/-- An effect records the events of at most one cycle or signal (R36). -/
theorem Effect.history {s t : State} {x : Instr} (h : Effect s x t) :
    ∃ es : List Event, t.history = s.history ++ es ∧ es.length ≤ 1 := by
  cases h with
  | ret | retTaken | retSkipped | retn | rst => exact ⟨[], by simp, by simp⟩
  | reti => exact ⟨[.retiDone], by simp, le_rfl⟩
  | inputA n => exact ⟨_, rfl, le_rfl⟩
  | inputReg r => exact ⟨_, by rw [setInputFlags_history, setReg_history, ioRead_history], le_rfl⟩
  | output _ port v => exact ⟨[.ioWrite port v], rfl, le_rfl⟩
  | blockIn | blockOut => exact ⟨[_], rfl, le_rfl⟩

/-- Settles O19: the NMI entry records nothing, an effect at most one event. -/
theorem historyGrowsByAtMostOneEvent : Obligations.HistoryGrowsByAtMostOneEvent := by
  intro s t h
  obtain ⟨-, rfl⟩ | ⟨x, pc, n, v, -, he, rfl⟩ := step_effect h
  · exact ⟨[], by simp⟩
  · rw [latchInputs_history]
    exact he.history

/-! ### Memory -/

/-- The memories a step can leave: as before, after a push, or after a store at HL (R52, R116, R136). -/
def MemoryEffect (s : State) (m : Memory) : Prop :=
  m = s.mem ∨ (∃ w : Word, m = (s.push16 w).mem) ∨ ∃ v : Byte, m = (s.memWrite s.hl v).mem

theorem Effect.mem {s t : State} {x : Instr} (h : Effect s x t) : MemoryEffect s t.mem := by
  cases h with
  | rst p => exact .inr (.inl ⟨s.pc, rfl⟩)
  | blockIn => exact .inr (.inr ⟨_, rfl⟩)
  | _ => exact .inl (by simp)

theorem step_mem {s t : State} (h : step s = .next t) : MemoryEffect s t.mem := by
  obtain ⟨-, rfl⟩ | ⟨x, pc, n, v, -, he, rfl⟩ := step_effect h
  · exact .inr (.inl ⟨s.pc, by simp⟩)
  · rw [latchInputs_mem]
    exact he.mem

theorem step_memMap {s t : State} (h : step s = .next t) : t.memMap = s.memMap := by
  obtain ⟨-, rfl⟩ | ⟨x, pc, n, v, -, he, rfl⟩ := step_effect h
  · simp
  · simpa using he.memMap

theorem MemoryEffect.wf {s : State} {m : Memory} (h : MemoryEffect s m) (hs : s.Inv) : Memory.wf m := by
  obtain rfl | ⟨w, rfl⟩ | ⟨v, rfl⟩ := h
  · exact hs
  · exact push16_wf hs w
  · exact memWrite_wf hs _ v

/-- Settles O14: a push and a store keep the canonical form, and a step does no more to memory. -/
theorem stepKeepsMemoryCanonical : Obligations.StepKeepsMemoryCanonical := by
  intro s t hs h
  exact (step_mem h).wf hs

/-- A write that changes a byte is to that address, and the address is ram (R54). -/
theorem writable_of_byteAt_memWrite_ne {s : State} {a x : Word} {v : Byte}
    (h : (s.memWrite a v).byteAt x ≠ s.byteAt x) : s.Writable x ∧ x = a := by
  have hx : x = a := by
    by_contra hne
    exact h (byteAt_memWrite_other hne v)
  subst hx
  refine ⟨?_, rfl⟩
  by_contra hram
  exact h (by rw [memWrite_of_not_ram hram])

/-- The bytes a push leaves are those of its two writes. -/
theorem byteAt_push16 (s : State) (w x : Word) : (s.push16 w).byteAt x =
    ((s.memWrite (s.sp - 1#16) (hi w)).memWrite (s.sp - 2#16) (lo w)).byteAt x := by
  rw [← sub_two]
  rfl

/-- A push that changes a byte does so at one of the two addresses below SP, and in ram (R52, R54). -/
theorem writable_of_byteAt_push16_ne {s : State} {w x : Word} (h : (s.push16 w).byteAt x ≠ s.byteAt x) :
    s.Writable x ∧ (x = s.sp - 1#16 ∨ x = s.sp - 2#16) := by
  rw [byteAt_push16] at h
  by_cases hhigh : (s.memWrite (s.sp - 1#16) (hi w)).byteAt x = s.byteAt x
  · rw [← hhigh] at h
    obtain ⟨hram, hx⟩ := writable_of_byteAt_memWrite_ne h
    exact ⟨hram, .inr hx⟩
  · obtain ⟨hram, hx⟩ := writable_of_byteAt_memWrite_ne hhigh
    exact ⟨hram, .inl hx⟩

/-- Settles O20, by the three memories a step can leave. -/
theorem memoryChangesOnlyAtStackOrHl : Obligations.MemoryChangesOnlyAtStackOrHl := by
  intro s t h
  refine ⟨step_memMap h, fun x hne => ?_⟩
  simp only [State.byteAt] at hne
  obtain hm | ⟨w, hm⟩ | ⟨v, hm⟩ := step_mem h <;> rw [hm] at hne
  · exact absurd rfl hne
  · obtain ⟨hram, hx | hx⟩ := writable_of_byteAt_push16_ne hne
    · exact ⟨hram, .inl hx⟩
    · exact ⟨hram, .inr (.inl hx)⟩
  · obtain ⟨hram, hx⟩ := writable_of_byteAt_memWrite_ne hne
    exact ⟨hram, .inr (.inr hx)⟩

/-! ### Registers that are not read -/

/-- An outcome with its next state replaced by `g` of it; a stop stays as it is. -/
def mapNext (g : State → State) : Host.Outcome State Fault Refusal → Host.Outcome State Fault Refusal
  | .next t => .next (g t)
  | .fault r => .fault r
  | .refused r => .refused r

/-- What a fetch gives with its state replaced by `g` of it. -/
def mapFetched (g : State → State) : Fetched → Fetched
  | .instr x t => .instr x (g t)
  | .unspecified bytes => .unspecified bytes

theorem exec_withNamedOnly (x : Instr) (s u : State) :
    exec x (s.withNamedOnly u) = mapNext (fun t => t.withNamedOnly u) (exec x s) := by
  cases x with
  | retCc cc =>
    show (if condHolds cc s.f then _ else _) = mapNext _ (if condHolds cc s.f then _ else _)
    split <;> rfl
  | inRC r => cases r <;> rfl
  | _ => rfl

theorem fetchInstr_withNamedOnly (s u : State) :
    fetchInstr (s.withNamedOnly u) = mapFetched (fun t => t.withNamedOnly u) (fetchInstr s) := by
  have h : ∀ v : State, (v.withNamedOnly u).fetchByte = (v.fetchByte.1, v.fetchByte.2.withNamedOnly u) := fun _ => rfl
  unfold fetchInstr
  simp only [h]
  cases decodeFirst s.fetchByte.1 with
  | done x => rfl
  | unspecified => rfl
  | more k =>
    simp only
    cases decodeSecond k s.fetchByte.2.fetchByte.1 <;> rfl

theorem takeNmi_withNamedOnly (s u : State) :
    takeNmi (s.withNamedOnly u) = mapNext (fun t => t.withNamedOnly u) (takeNmi s) := by
  show (if s.iff1 = s.iff2 then _ else _) = mapNext _ (if s.iff1 = s.iff2 then _ else _)
  split <;> rfl

theorem afterStep_withNamedOnly (o : Host.Outcome State Fault Refusal) (u : State) :
    afterStep (mapNext (fun t => t.withNamedOnly u) o) = mapNext (fun t => t.withNamedOnly u) (afterStep o) := by
  cases o <;> rfl

/-- The replacement commutes with the step, through each of its tests and both of its actions. -/
theorem step_withNamedOnly (s u : State) :
    step (s.withNamedOnly u) = mapNext (fun t => t.withNamedOnly u) (step s) := by
  have hend : (s.withNamedOnly u).runEnded = s.runEnded := rfl
  have hnmi : (s.withNamedOnly u).nmiPending = s.nmiPending := rfl
  have hmask : (s.withNamedOnly u).maskableSeen = s.maskableSeen := rfl
  unfold step
  rw [hend, hnmi, hmask, takeNmi_withNamedOnly, afterStep_withNamedOnly, fetchInstr_withNamedOnly]
  split
  · rfl
  split
  · rfl
  split
  · rfl
  cases fetchInstr s with
  | instr x t => simp only [mapFetched, exec_withNamedOnly, afterStep_withNamedOnly]
  | unspecified bytes => rfl

/-- Settles O16: the step commutes with the replacement. -/
theorem namedOnlyRegistersAreUntouched : Obligations.NamedOnlyRegistersAreUntouched := by
  intro s u t h
  rw [step_withNamedOnly, h]
  rfl

/-- Settles O21, instruction by instruction. -/
theorem portInstructionsIgnoreSp : Obligations.PortInstructionsIgnoreSp := by
  intro x s t w hret hretCc hreti hretn hrst h
  cases x with
  | ret => exact absurd rfl hret
  | retCc cc => exact absurd rfl (hretCc cc)
  | reti => exact absurd rfl hreti
  | retn => exact absurd rfl hretn
  | rst p => exact absurd rfl (hrst p)
  | inRC r =>
    obtain rfl := Host.Outcome.next.inj h
    cases r <;> exact ⟨rfl, rfl⟩
  | _ =>
    obtain rfl := Host.Outcome.next.inj h
    exact ⟨rfl, rfl⟩

/-! ### Flag computations -/

theorem signOf_eq_msb (v : Byte) : signOf v = v.msb := (BitVec.msb_eq_getLsbD_last v).symm

theorem signOf_eq_decide (v : Byte) : signOf v = decide (128 ≤ v.toNat) :=
  (signOf_eq_msb v).trans (BitVec.msb_eq_decide v)

theorem overflowOfAdd_eq_saddOverflow (x y : Byte) : overflowOfAdd x y = x.saddOverflow y := by
  rw [BitVec.saddOverflow_eq, overflowOfAdd]
  simp only [signOf_eq_msb]
  rfl

theorem overflowOfSub_eq_ssubOverflow (x y : Byte) : overflowOfSub x y = x.ssubOverflow y := by
  rw [BitVec.ssubOverflow_eq, overflowOfSub]
  simp only [signOf_eq_msb]
  cases x.msb <;> cases y.msb <;> cases (x - y).msb <;> rfl

theorem overflowOfAdd_iff_carries_differ (x y : Byte) :
    overflowOfAdd x y = true ↔ carryIntoSign x y false ≠ carryOfAdd x y false := by
  have hx := x.isLt
  have hy := y.isLt
  simp [overflowOfAdd, signOf_eq_decide, carryIntoSign, carryOfAdd]
  omega

theorem overflowOfSub_iff_carries_differ (x y : Byte) :
    overflowOfSub x y = true ↔ carryIntoSign x (~~~y) true ≠ carryOfAdd x (~~~y) true := by
  have hx := x.isLt
  have hy := y.isLt
  simp [overflowOfSub, signOf_eq_decide, carryIntoSign, carryOfAdd, BitVec.toNat_sub]
  omega

/-- Settles O51: the library's signed overflow gives the range, the numbers of the bytes give the carries. -/
theorem overflowIsTheSignedResultOutOfRange : Obligations.OverflowIsTheSignedResultOutOfRange := by
  intro x y
  refine ⟨?_, ?_, overflowOfAdd_iff_carries_differ x y, overflowOfSub_iff_carries_differ x y⟩
  · simp [overflowOfAdd_eq_saddOverflow, BitVec.saddOverflow]
    omega
  · simp [overflowOfSub_eq_ssubOverflow, BitVec.ssubOverflow]
    omega

/-- The complement of the subtrahend turns "the sum has no carry" into "the subtrahend is larger" (R22). -/
theorem borrowOfSub_iff (x y : Byte) (bin : Bool) : borrowOfSub x y bin = true ↔ x.toNat < y.toNat + bin.toNat := by
  have hy := y.isLt
  cases bin <;> simp [borrowOfSub, carryOfAdd] <;> omega

theorem halfBorrowOfSub_eq_not_halfCarry (x y : Byte) (bin : Bool) :
    halfBorrowOfSub x y bin = !halfCarryOfAdd x (~~~y) (!bin) := by
  have hy := y.isLt
  rw [Bool.eq_iff_iff]
  cases bin <;> simp [halfBorrowOfSub, halfCarryOfAdd] <;> omega

/-- Settles O52; the middle clause is the definition of the half borrow. -/
theorem borrowSaysSubtrahendIsLarger : Obligations.BorrowSaysSubtrahendIsLarger := fun x y bin =>
  ⟨borrowOfSub_iff x y bin, decide_eq_true_iff, halfBorrowOfSub_eq_not_halfCarry x y bin⟩

/-! ### The daisy chain -/

/-- Settles O56, by induction on the positions that raise. -/
theorem idleDevicesRaiseRequests : Obligations.IdleDevicesRaiseRequests := by
  intro ch ks k
  induction ks generalizing ch with
  | nil => simp [Chain.raise]
  | cons j ks ih =>
    have hcons : Chain.raise ch (j :: ks) = Chain.raise (Chain.raiseOne ch j) ks := rfl
    rw [hcons, ih, raiseOne_getElem?]
    by_cases hkj : k = j
    · by_cases hidle : ch[j]? = some .idle <;> simp [hkj, hidle]
    · simp [hkj]

/-! ### Reset -/

/-- Settles O12: a memory that lists nothing. -/
theorem resetMemoryIsCanonical : Obligations.ResetMemoryIsCanonical := reset_memory_wf

/-- Settles O13, field by field. -/
theorem resetValues : Obligations.ResetValues := by
  have hregs : ∀ x : Reg, State.reset.getReg x = 0x00#8 := fun x => by cases x <;> rfl
  have hflags : Flags.clear.toByte = 0x00#8 := by decide
  exact ⟨rfl, rfl, rfl, rfl, rfl, rfl, rfl, rfl, rfl, hregs, hflags, rfl, hflags, rfl, rfl, rfl, rfl, rfl, rfl, rfl,
    rfl, fun _ => rfl, fun _ => rfl, rfl, rfl, rfl, rfl⟩

/-! ### The stack at the ends of the address space, and the conditions -/

/-- Settles O25: the laws of pop and push, at the two values of SP. -/
theorem stackWrapsAtBothEnds : Obligations.StackWrapsAtBothEnds := by
  refine ⟨fun s hsp hlow hhigh => ?_, fun s w hsp hhigh hlow => ?_⟩
  · have := pop16_of_present (s := s) (by rwa [hsp]) (by rw [hsp]; exact hhigh)
    rw [this, hsp]
    rfl
  · have h1 : s.sp - 1#16 = 0x0000#16 := by rw [hsp]; rfl
    have h2 : s.sp - 2#16 = 0xFFFF#16 := by rw [hsp]; rfl
    refine ⟨by rw [push16_eq]; exact h2, ?_, ?_⟩
    · exact h1 ▸ push16_high (h1 ▸ hhigh) w
    · exact h2 ▸ push16_low (h2 ▸ hlow) w

/-- Settles O50, condition by condition. -/
theorem conditionTable : Obligations.ConditionTable := by
  refine ⟨fun cc f => ?_, rfl, by decide⟩
  cases cc <;> simp [condHolds, Cond.code]

end Sys2Proof.Proofs

/-!
PROOFS of the statements of 20_memory.md: reads and writes, the stack, and an instruction that is overwritten.

The shape of the last part: `step_of_decode_instr` and `step_of_decode_unspecified` say once what a step from present
memory is, and `step_inir` what the step from an INIR leaves.
-/

namespace Sys2Proof.Proofs

open Sys2Proof Sys2Proof.Machine

/-! ### Reads -/

/-- A read of an absent address is a draw (R53). -/
theorem memRead_of_absent {s : State} {a : Word} (h : ¬ s.Present a) :
    s.memRead a = (Config.freeByte s.draws, { s with draws := s.draws + 1 }) := by
  have hk : s.kindAt a = .absent := not_not.1 h
  simp only [State.memRead, State.readByte, MemKind.readDraws, hk]

/-- Settles O23, by the two laws of a read. -/
theorem readReturnsStoredByteOrDraw : Obligations.ReadReturnsStoredByteOrDraw := fun _ _ =>
  ⟨memRead_of_present, memRead_of_absent⟩

theorem present_of_writable {s : State} {a : Word} (h : s.Writable a) : s.Present a := by
  rw [State.Present, h]
  exact nofun

/-! ### Writes, one after another -/

/-- The state after writes to some addresses, in order. -/
def writeAll (s : State) (ws : List (Word × Byte)) : State :=
  ws.foldl (fun (u : State) w => u.memWrite w.1 w.2) s

theorem writeAll_cons (s : State) (w : Word × Byte) (ws : List (Word × Byte)) :
    writeAll s (w :: ws) = writeAll (s.memWrite w.1 w.2) ws := rfl

/-- Writes change nothing but the stored bytes. -/
theorem writeAll_frame (s : State) (ws : List (Word × Byte)) :
    writeAll s ws = { s with mem := (writeAll s ws).mem } := by
  induction ws generalizing s with
  | nil => rfl
  | cons w ws ih =>
    rw [writeAll_cons]
    exact ih (s.memWrite w.1 w.2)

/-- Writes leave every address alone that none of them is to. -/
theorem byteAt_writeAll_other {x : Word} {ws : List (Word × Byte)} (h : ∀ w ∈ ws, w.1 ≠ x) (s : State) :
    (writeAll s ws).byteAt x = s.byteAt x := by
  induction ws generalizing s with
  | nil => rfl
  | cons w ws ih =>
    obtain ⟨hw, hws⟩ := List.forall_mem_cons.1 h
    rw [writeAll_cons, ih hws, byteAt_memWrite_other hw.symm]

/-- A byte written to ram is what a read gives after any writes elsewhere (R54). -/
theorem memRead_writeAll_memWrite {s : State} {x : Word} (hx : s.Writable x) (v : Byte) {ws : List (Word × Byte)}
    (hws : ∀ w ∈ ws, w.1 ≠ x) : ((writeAll (s.memWrite x v) ws).memRead x).1 = v := by
  have hkind : (writeAll (s.memWrite x v) ws).kindAt x = s.kindAt x := by
    rw [writeAll_frame]
    rfl
  rw [memRead_of_present (present_of_writable (hkind.trans hx)), byteAt_writeAll_other hws, byteAt_memWrite_same hx]

/-- Settles O22: a fetch is a read at PC, which no write moves. -/
theorem writtenByteIsReadUntilOverwritten : Obligations.WrittenByteIsReadUntilOverwritten := by
  intro s x v
  refine ⟨fun hx ws hws => ⟨memRead_writeAll_memWrite hx v hws, ?_⟩, fun y hy => byteAt_memWrite_other hy v,
    fun hx => memWrite_of_not_ram hx v⟩
  rintro rfl
  have hpc : (writeAll (s.memWrite s.pc v) ws).pc = s.pc := by
    rw [writeAll_frame]
    rfl
  calc (writeAll (s.memWrite s.pc v) ws).fetchByte.1
    _ = ((writeAll (s.memWrite s.pc v) ws).memRead s.pc).1 := by rw [State.fetchByte, hpc]
    _ = v := memRead_writeAll_memWrite hx v hws

/-! ### The stack -/

/-- Settles O24: the two bytes the push stored are those the pop reads. -/
theorem popAfterPushGivesTheWordBack : Obligations.PopAfterPushGivesTheWordBack := by
  intro s w hhigh hlow
  have hsp : (s.push16 w).sp = s.sp - 2#16 := by rw [push16_eq]
  have hkind : ∀ a, (s.push16 w).kindAt a = s.kindAt a := fun _ => rfl
  have hone : s.sp - 2#16 + 1#16 = s.sp - 1#16 := by bv_omega
  have hpop := pop16_of_present (s := s.push16 w)
    (by rw [State.Present, hkind, hsp]; exact present_of_writable hlow)
    (by rw [State.Present, hkind, hsp, hone]; exact present_of_writable hhigh)
  refine ⟨?_, push16_high hhigh w, push16_low hlow w⟩
  rw [hpop, hsp, hone, push16_high hhigh, push16_low hlow, cat_hi_lo, BitVec.sub_add_cancel, push16_eq]

/-! ### Steps from present memory -/

/-- A step runs the instruction that the two bytes at PC make, from the state with PC past it (R81, R183). -/
theorem step_of_decode_instr {s : State} {x : Instr} {rest : List Byte} (hs : s.Fetches) (h0 : s.Present s.pc)
    (h1 : s.Present (s.pc + 1#16)) (h : decode [s.byteAt s.pc, s.byteAt (s.pc + 1#16)] = .instr x rest) :
    step s = afterStep (exec x { s with pc := s.pc + BitVec.ofNat 16 x.size }) := by
  rw [step_of_fetches hs, fetchInstr_of_present h0 h1, h]

/-- A step refuses the bytes that make no instruction (R92). -/
theorem step_of_decode_unspecified {s : State} {bytes : List Byte} (hs : s.Fetches) (h0 : s.Present s.pc)
    (h1 : s.Present (s.pc + 1#16)) (h : decode [s.byteAt s.pc, s.byteAt (s.pc + 1#16)] = .unspecified bytes) :
    step s = .refused (.unspecifiedEncoding bytes) := by
  rw [step_of_fetches hs, fetchInstr_of_present h0 h1, h]

/-- An instruction that begins with EDH has two bytes (R80). -/
theorem size_of_decode_ed {v : Byte} {x : Instr} {rest : List Byte} (h : decode [0xED#8, v] = .instr x rest) :
    x.size = 2 := by
  have hed : decode [0xED#8, v] = match decodeSecond .ed v with
    | some i => .instr i []
    | none => .unspecified [0xED#8, v] := rfl
  rw [hed] at h
  split at h
  next hsecond =>
    cases h
    exact size_of_decodeSecond hsecond
  next => cases h

theorem fetches_of_quiet {s : State} (h : s.Quiet) : s.Fetches := by
  obtain ⟨hend, hnmi, hmask, -⟩ := h
  refine ⟨?_, hnmi, hmask⟩
  rw [State.runEnded, hend]
  rfl

/-- With no input left nothing is latched. -/
theorem latchInputs_of_inputs_nil {s : State} (h : s.inputs = []) : s.latchInputs = s := by
  have hkept : s.latchInputs = { s with inputs := [] } := by
    simp [State.latchInputs, h, nmiRequested, devicesRaised, Chain.raise]
  rw [hkept, ← h]

/-! ### An instruction that is overwritten -/

/-- One iteration of INIR or INDR, everything it does (R133, R135). -/
theorem repeatedBlockIn_transfersIn (s : State) (dir : Dir) :
    s.TransfersIn (s.blockIn dir).repeatUnlessDone (dir.move s.hl) s.repeatPc := by
  obtain ⟨-, hhl, hflags, hbyte, hother⟩ := blockIn_transfers s dir
  exact ⟨rfl, hhl, hflags, hbyte, hother⟩

/-- A step from an INIR in present memory while nothing else happens: one iteration, after which PC is past the
instruction where B has reached zero and back at it otherwise (R133, R137). -/
theorem step_inir {s : State} (hs : s.Quiet) (h0 : s.Present s.pc) (h1 : s.Present (s.pc + 1#16))
    (hfirst : s.byteAt s.pc = 0xED#8) (hsecond : s.byteAt (s.pc + 1#16) = 0xB2#8) :
    ∃ t : State, step s = .next t ∧ t.Quiet ∧
      s.TransfersIn t (s.hl + 1#16) (if s.b - 1#8 = 0#8 then s.pc + 2#16 else s.pc) := by
  have hdecode : decode [s.byteAt s.pc, s.byteAt (s.pc + 1#16)] = .instr .inir [] := by
    rw [hfirst, hsecond]
    decide
  have hiter := repeatedBlockIn_transfersIn { s with pc := s.pc + 2#16 } .up
  rw [State.repeatPc, BitVec.add_sub_cancel] at hiter
  have hfetches := fetches_of_quiet hs
  obtain ⟨hend, hnmi, hmask, hinputs⟩ := hs
  refine ⟨(({ s with pc := s.pc + 2#16 } : State).blockIn .up).repeatUnlessDone, ?_,
    ⟨hend, hnmi, hmask, hinputs⟩, hiter⟩
  rw [step_of_decode_instr hfetches h0 h1 hdecode]
  exact congrArg Host.Outcome.next (latchInputs_of_inputs_nil hinputs)

/-- Settles O49: one iteration leaves PC at the instruction and its second byte new, and the next step decodes both. -/
theorem inirOverItselfIsDecodedAnew : Obligations.InirOverItselfIsDecodedAnew := by
  intro s v rest hquiet hram hfirst hsecond hhl hb hport
  have hpresent : ∀ x, s.Present x := fun x => present_of_writable (hram x)
  obtain ⟨t, hstep, htquiet, hframe, -, -, hstored, hkept⟩ :=
    step_inir hquiet (hpresent _) (hpresent _) hfirst hsecond
  have hpc : t.pc = s.pc := by
    have hb0 : s.b - 1#8 ≠ 0#8 := by bv_omega
    rw [hframe, if_neg hb0]
  have htpresent : ∀ x, t.Present x := by
    rw [hframe]
    exact hpresent
  have htfirst : t.byteAt s.pc = 0xED#8 := by
    have hne : s.pc ≠ s.hl := by
      rw [hhl]
      bv_omega
    rw [hkept s.pc hne, hfirst]
  have htsecond : t.byteAt (s.pc + 1#16) = v := by
    rw [← hhl, hstored, if_pos (hram s.hl), State.portByte, hport]
  refine ⟨t, hstep, hpc, htfirst, htsecond, fun x hx => ?_, fun hv => ?_⟩
  · have hbytes : decode [t.byteAt t.pc, t.byteAt (t.pc + 1#16)] = .instr x [] := by
      rwa [hpc, htfirst, htsecond]
    rw [step_of_decode_instr (fetches_of_quiet htquiet) (htpresent _) (htpresent _) hbytes, size_of_decode_ed hx, hpc]
  · have hbytes : decode [t.byteAt t.pc, t.byteAt (t.pc + 1#16)] = .unspecified [0xED#8, v] := by
      rwa [hpc, htfirst, htsecond]
    exact step_of_decode_unspecified (fetches_of_quiet htquiet) (htpresent _) (htpresent _) hbytes

end Sys2Proof.Proofs

/-!
PROOFS of the statements of 30_encoding.md: decoding and encoding are inverse, the first byte decides the length, and a
step at a boundary is what decoding makes of the bytes at PC.

The shape of the first part: a byte with a 3-bit field is its fixed bits around the field, each field table is inverted
once, and `decode_eq_instr` says once how a list of bytes comes to be decoded.
-/

namespace Sys2Proof.Proofs

open Sys2Proof Sys2Proof.Machine

/-! ### Fields -/

theorem reg_code_of_ofCode {v : BitVec 3} {r : Reg} (h : Reg.ofCode v = some r) : r.code = v := by
  unfold Reg.ofCode at h
  split_ifs at h with hv hv hv hv hv hv hv <;> cases h <;> exact hv.symm

theorem cond_code_ofCode : ∀ v : BitVec 3, (Cond.ofCode v).code = v := by
  decide

theorem restartCode_restartOfCode : ∀ v : BitVec 3, restartCode (restartOfCode v) = v := by
  decide

theorem wellFormed_rst_restartOfCode : ∀ v : BitVec 3, (Instr.rst (restartOfCode v)).wellFormed = true := by
  decide

/-- The bits of a byte outside its field, and the field. -/
theorem eq_and_or_field : ∀ b : Byte, b = b &&& 0xC7#8 ||| restartOfCode (b.extractLsb' 3 3) := by
  decide

theorem append_or_field : ∀ (x : BitVec 2) (v y : BitVec 3),
    (x ++ 0b000#3 ++ y : Byte) ||| restartOfCode v = x ++ v ++ y := by
  decide

/-- A byte whose bits 7, 6 and 2 to 0 are fixed is these bits around its field. -/
theorem eq_append_field {b : Byte} (x : BitVec 2) (y : BitVec 3) (h : b &&& 0xC7#8 = x ++ 0b000#3 ++ y) :
    b = x ++ b.extractLsb' 3 3 ++ y :=
  calc b
    _ = b &&& 0xC7#8 ||| restartOfCode (b.extractLsb' 3 3) := eq_and_or_field b
    _ = (x ++ 0b000#3 ++ y : Byte) ||| restartOfCode (b.extractLsb' 3 3) := by rw [h]
    _ = x ++ b.extractLsb' 3 3 ++ y := append_or_field x _ y

/-- A well-formed restart operand is the operand of its field (R88). -/
theorem restartOfCode_restartCode {p : Byte} (h : (Instr.rst p).wellFormed = true) :
    restartOfCode (restartCode p) = p :=
  (eq_append_field 0b00#2 0b000#3 (eq_of_beq h)).symm

/-! ### The tests on the first byte -/

theorem decodeFirst_retCc (cc : Cond) : decodeFirst (0b11#2 ++ cc.code ++ 0b000#3) = .done (.retCc cc) := by
  cases cc <;> decide

theorem decodeFirst_rst : ∀ v : BitVec 3,
    decodeFirst (0b11#2 ++ v ++ 0b111#3) = .done (.rst (restartOfCode v)) := by
  decide

/-- What the first byte completes is well formed, and that byte is its encoding (R82, R83). -/
theorem encode_of_decodeFirst {b : Byte} {x : Instr} (h : decodeFirst b = .done x) :
    x.wellFormed = true ∧ encode x = [b] := by
  unfold decodeFirst at h
  split_ifs at h with hret hcc hrst <;> cases h
  · exact ⟨rfl, by rw [hret]; rfl⟩
  · refine ⟨rfl, ?_⟩
    rw [encode, cond_code_ofCode, ← eq_append_field 0b11#2 0b000#3 hcc]
  · refine ⟨wellFormed_rst_restartOfCode _, ?_⟩
    rw [encode, restartCode_restartOfCode, ← eq_append_field 0b11#2 0b111#3 hrst]

/-- The first byte announces a second one where it is EDH, DBH or D3H (R80). -/
theorem decodeFirst_eq_more_iff (b : Byte) :
    (∃ k, decodeFirst b = .more k) ↔ b = 0xED#8 ∨ b = 0xDB#8 ∨ b = 0xD3#8 := by
  constructor
  · rintro ⟨k, h⟩
    unfold decodeFirst at h
    split_ifs at h with _ _ _ hin hout hed
    · exact .inr (.inl hin)
    · exact .inr (.inr hout)
    · exact .inl hed
  · rintro (rfl | rfl | rfl)
    · exact ⟨.ed, rfl⟩
    · exact ⟨.inA, rfl⟩
    · exact ⟨.outA, rfl⟩

/-! ### The tests on the second byte -/

theorem decodeEd_inRC (r : Reg) : decodeEd (0b01#2 ++ r.code ++ 0b000#3) = some (.inRC r) := by
  cases r <;> decide

theorem decodeEd_outCR (r : Reg) : decodeEd (0b01#2 ++ r.code ++ 0b001#3) = some (.outCR r) := by
  cases r <;> decide

/-- What the byte after EDH completes is well formed, and the two bytes are its encoding (R84 to R86). -/
theorem encode_of_decodeEd {b : Byte} {x : Instr} (h : decodeEd b = some x) :
    x.wellFormed = true ∧ encode x = [0xED#8, b] := by
  unfold decodeEd at h
  iterate 10
    obtain ⟨rfl, ⟨⟩⟩ | ⟨-, h⟩ := ite_eq_iff.1 h
    · exact ⟨rfl, rfl⟩
  obtain ⟨hin, h⟩ | ⟨-, h⟩ := ite_eq_iff.1 h
  · obtain ⟨r, hr, rfl⟩ := Option.map_eq_some_iff.1 h
    refine ⟨rfl, ?_⟩
    rw [encode, reg_code_of_ofCode hr, ← eq_append_field 0b01#2 0b000#3 hin]
  obtain ⟨hout, h⟩ | ⟨-, h⟩ := ite_eq_iff.1 h
  · obtain ⟨r, hr, rfl⟩ := Option.map_eq_some_iff.1 h
    refine ⟨rfl, ?_⟩
    rw [encode, reg_code_of_ofCode hr, ← eq_append_field 0b01#2 0b001#3 hout]
  · cases h

/-- What a second byte completes is well formed, and the two bytes are its encoding (R84 to R86). -/
theorem encode_of_decodeSecond {b0 b1 : Byte} {k : Lead} {x : Instr} (h0 : decodeFirst b0 = .more k)
    (h1 : decodeSecond k b1 = some x) : x.wellFormed = true ∧ encode x = [b0, b1] := by
  unfold decodeFirst at h0
  split_ifs at h0 with _ _ _ hin hout hed <;> cases h0
  · cases h1
    exact ⟨rfl, by rw [hin]; rfl⟩
  · cases h1
    exact ⟨rfl, by rw [hout]; rfl⟩
  · rw [hed]
    exact encode_of_decodeEd h1

/-! ### Lists of bytes -/

theorem decode_of_done {b0 : Byte} {x : Instr} (h : decodeFirst b0 = .done x) (rest : List Byte) :
    decode (b0 :: rest) = .instr x rest := by
  simp only [decode, h]

theorem decode_of_some {b0 b1 : Byte} {k : Lead} {x : Instr} (h0 : decodeFirst b0 = .more k)
    (h1 : decodeSecond k b1 = some x) (rest : List Byte) : decode (b0 :: b1 :: rest) = .instr x rest := by
  simp only [decode, h0, h1]

theorem decode_of_unspecified {b0 : Byte} (h : decodeFirst b0 = .unspecified) (rest : List Byte) :
    decode (b0 :: rest) = .unspecified [b0] := by
  simp only [decode, h]

/-- How a list of bytes comes to be decoded: its first byte completes an instruction, or its first two do (R81). -/
theorem decode_eq_instr {bytes rest : List Byte} {x : Instr} (h : decode bytes = .instr x rest) :
    (∃ b0, bytes = b0 :: rest ∧ decodeFirst b0 = .done x) ∨
    ∃ b0 b1 k, bytes = b0 :: b1 :: rest ∧ decodeFirst b0 = .more k ∧ decodeSecond k b1 = some x := by
  unfold decode at h
  split at h
  · cases h
  split at h
  · cases h
    exact .inl ⟨_, rfl, ‹_›⟩
  · cases h
  split at h
  · cases h
  split at h
  · cases h
    exact .inr ⟨_, _, _, rfl, ‹_›, ‹_›⟩
  · cases h

/-- One byte is too short to decode exactly where it announces a second one. -/
theorem decode_singleton_eq_truncated_iff (b : Byte) :
    decode [b] = .truncated ↔ ∃ k, decodeFirst b = .more k := by
  cases h : decodeFirst b <;> simp [decode, h]

/-- Settles O1, instruction by instruction: its first byte completes it, or its first two do. -/
theorem decodeEncodeRoundTrip : Obligations.DecodeEncodeRoundTrip := by
  intro x rest hx
  cases x with
  | ret => exact decode_of_done rfl rest
  | retCc cc => exact decode_of_done (decodeFirst_retCc cc) rest
  | rst p =>
    rw [encode, List.singleton_append, decode_of_done (decodeFirst_rst (restartCode p)), restartOfCode_restartCode hx]
  | inRC r => exact decode_of_some (k := .ed) rfl (decodeEd_inRC r) rest
  | outCR r => exact decode_of_some (k := .ed) rfl (decodeEd_outCR r) rest
  | inAN n => exact decode_of_some (k := .inA) rfl rfl rest
  | outNA n => exact decode_of_some (k := .outA) rfl rfl rest
  | _ => exact decode_of_some (k := .ed) rfl rfl rest

/-- Settles O2: each byte the decoder accepts is a byte of the encoding. -/
theorem decodedBytesAreTheEncoding : Obligations.DecodedBytesAreTheEncoding := by
  intro bytes x rest h
  obtain ⟨b0, rfl, h0⟩ | ⟨b0, b1, k, rfl, h0, h1⟩ := decode_eq_instr h
  · obtain ⟨hwf, henc⟩ := encode_of_decodeFirst h0
    exact ⟨hwf, by rw [henc]; rfl⟩
  · obtain ⟨hwf, henc⟩ := encode_of_decodeSecond h0 h1
    exact ⟨hwf, by rw [henc]; rfl⟩

/-- Settles O4: the length is 2 where the first byte announces a second one. -/
theorem firstByteDecidesLength : Obligations.FirstByteDecidesLength := by
  refine ⟨fun b0 bytes x rest h => ?_,
    fun b0 => (decode_singleton_eq_truncated_iff b0).trans (decodeFirst_eq_more_iff b0)⟩
  obtain ⟨b, hb, h0⟩ | ⟨b, b1, k, hb, h0, h1⟩ := decode_eq_instr h <;> cases hb
  · have hlast : ¬ (b0 = 0xED#8 ∨ b0 = 0xDB#8 ∨ b0 = 0xD3#8) := by
      rw [← decodeFirst_eq_more_iff, h0]
      exact nofun
    rw [if_neg hlast, add_zero]
  · rw [if_pos ((decodeFirst_eq_more_iff b0).1 ⟨k, h0⟩), List.length_cons]

/-- Settles O3: each word is the encoding of its instruction. -/
theorem specWordsDecode : Obligations.SpecWordsDecode :=
  ⟨decodeEncodeRoundTrip .ret [] rfl,
    decodeEncodeRoundTrip (.retCc .m) [] rfl,
    decodeEncodeRoundTrip (.rst 0x18#8) [] rfl,
    decodeEncodeRoundTrip .reti [] rfl,
    decodeEncodeRoundTrip (.inAN 0x5A#8) [] rfl,
    decodeEncodeRoundTrip (.inRC .a) [] rfl,
    decodeEncodeRoundTrip .indr [] rfl,
    decodeEncodeRoundTrip (.outNA 0x5A#8) [] rfl,
    decodeEncodeRoundTrip (.outCR .d) [] rfl,
    decodeEncodeRoundTrip .outi [] rfl⟩

/-! ### Steps where the byte after PC may be absent -/

/-- A byte that completes an instruction is all that is fetched (R81). -/
theorem fetchInstr_of_done {s : State} {x : Instr} (h0 : s.Present s.pc)
    (h : decodeFirst (s.byteAt s.pc) = .done x) : fetchInstr s = .instr x { s with pc := s.pc + 1#16 } := by
  simp only [fetchInstr, fetchByte_of_present h0, h]

/-- A first byte that is in no test is all that is fetched (R81, R92). -/
theorem fetchInstr_of_unspecified {s : State} (h0 : s.Present s.pc)
    (h : decodeFirst (s.byteAt s.pc) = .unspecified) : fetchInstr s = .unspecified [s.byteAt s.pc] := by
  simp only [fetchInstr, fetchByte_of_present h0, h]

set_option maxRecDepth 2000 in
/-- 236 first bytes are in no test of R81 (R92). -/
theorem count_unspecified_first :
    ((List.range 256).filter fun k =>
      decode [BitVec.ofNat 8 k, 0#8] = .unspecified [BitVec.ofNat 8 k]).length = 236 := by
  decide

set_option maxRecDepth 2000 in
/-- 232 bytes after EDH are in no test of R81 (R92). -/
theorem count_unspecified_after_ed :
    ((List.range 256).filter fun k =>
      decode [0xED#8, BitVec.ofNat 8 k] = .unspecified [0xED#8, BitVec.ofNat 8 k]).length = 232 := by
  decide

/-- Settles O5: the second byte is fetched only where the first announces it. -/
theorem undecodedBytesAreRefused : Obligations.UndecodedBytesAreRefused := by
  refine ⟨fun s bytes hs h0 h1 h => ?_, count_unspecified_first, count_unspecified_after_ed⟩
  cases hfirst : decodeFirst (s.byteAt s.pc) with
  | done x =>
    rw [decode_of_done hfirst] at h
    cases h
  | unspecified =>
    rw [decode_of_unspecified hfirst] at h
    cases h
    rw [step_of_fetches hs, fetchInstr_of_unspecified h0 hfirst]
  | more k =>
    exact step_of_decode_unspecified hs h0 (h1 ((decode_singleton_eq_truncated_iff _).2 ⟨k, hfirst⟩)) h

/-- Settles O6: after EDH the two bytes are in no test of R81. -/
theorem registerCode110IsRefused : Obligations.RegisterCode110IsRefused := by
  intro s v hs h0 h1 hv hfirst hsecond
  have hdecode : decode [0xED#8, v] = .unspecified [0xED#8, v] := by
    obtain rfl | rfl := hv <;> decide
  exact step_of_decode_unspecified hs h0 h1 (by rw [hfirst, hsecond, hdecode])

/-- Settles O7: an instruction of one byte is fetched without the byte after it. -/
theorem stepRunsTheDecodedInstruction : Obligations.StepRunsTheDecodedInstruction := by
  intro s x rest hs h0 h1 h
  obtain ⟨b0, hbytes, hfirst⟩ | ⟨b0, b1, k, -, -, hsecond⟩ := decode_eq_instr h
  · cases hbytes
    rw [step_of_fetches hs, fetchInstr_of_done h0 hfirst, size_of_decodeFirst hfirst]
  · exact step_of_decode_instr hs h0 (h1 (size_of_decodeSecond hsecond)) h

end Sys2Proof.Proofs

/-!
PROOFS of the statements of 40_return_restart.md: the returns, the restart, and coming back from a restart and from an
NMI entry.

The shape of the second part: `popPc_callFixed` says once that a return undoes a call to a fixed address, which RST and
the NMI entry share; what else an NMI entry and the end of a step change lies beside what a pop reads.
-/

namespace Sys2Proof.Proofs

open Sys2Proof Sys2Proof.Machine

/-! ### Returns and restart -/

/-- Settles O26: RET is the shared pop into PC. -/
theorem retPopsPc : Obligations.RetPopsPc := fun s => ⟨s.popPc, rfl, popPc_pops s⟩

/-- Settles O27, by the two branches of the condition. -/
theorem retCcPopsPcOnlyIfTrue : Obligations.RetCcPopsPcOnlyIfTrue := by
  intro cc s
  cases h : condHolds cc s.f with
  | true => exact ⟨s.popPc, if_pos h, fun _ => popPc_pops s, nofun⟩
  | false => exact ⟨s, if_neg (by simp [h]), nofun, fun _ => rfl⟩

/-- RETN leaves the popped state with IFF1 the old IFF2 (R114). -/
theorem exec_retn (s : State) : exec .retn s = .next { s.popPc with iff1 := s.iff2 } := by
  rw [← popPc_iff2]
  rfl

/-- RETI leaves what RETN leaves, after the completion signal (R113, R115). -/
theorem exec_reti (s : State) :
    exec .reti s = .next ({ s.popPc with iff1 := s.iff2 } : State).signalRetiDone := by
  rw [← popPc_iff2]
  rfl

/-- Settles O28: the pop keeps the history and the chain that the signal adds to. -/
theorem retiPopsCopiesAndSignals : Obligations.RetiPopsCopiesAndSignals := by
  intro s
  refine ⟨s.popPc, popPc_pops s, ?_⟩
  rw [exec_reti, ← popPc_history, ← popPc_chain]
  rfl

/-- Settles O29. -/
theorem retnPopsAndCopies : Obligations.RetnPopsAndCopies := fun s => ⟨s.popPc, popPc_pops s, exec_retn s⟩

/-- Settles O30: the pop touches neither the history nor the chain, so the signal is all that differs. -/
theorem retiAndRetnDifferInTheSignal : Obligations.RetiAndRetnDifferInTheSignal :=
  ⟨fun s => ⟨{ s.popPc with iff1 := s.iff2 }, exec_retn s, exec_reti s, popPc_history s, popPc_chain s, rfl⟩, rfl, rfl⟩

/-- Settles O31: RST is the shared call to a fixed address. -/
theorem rstPushesPcAndJumps : Obligations.RstPushesPcAndJumps := fun p s =>
  ⟨s.callFixed (restartTarget p), rfl, callFixed_calls s _⟩

/-! ### Coming back -/

/-- With the stack in ram a return undoes a call to a fixed address: the stored bytes alone stay (R110, R112). -/
theorem popPc_callFixed {s : State} (hhigh : s.Writable (s.sp - 1#16)) (hlow : s.Writable (s.sp - 2#16))
    (target : Word) : (s.callFixed target).popPc = { s with mem := (s.callFixed target).mem } := by
  obtain ⟨hpop, -, -⟩ := popAfterPushGivesTheWordBack s s.pc hhigh hlow
  calc (s.callFixed target).popPc
    _ = { (s.push16 s.pc).pop16.2 with pc := (s.push16 s.pc).pop16.1 } := rfl
    _ = { s with mem := (s.push16 s.pc).mem } := by rw [hpop]

/-- Settles O32: the return undoes the call of the restart. -/
theorem retComesBackFromRst : Obligations.RetComesBackFromRst := by
  intro p s hhigh hlow
  obtain ⟨-, -, -, hother⟩ := callFixed_calls s (restartTarget p)
  refine ⟨s.callFixed (restartTarget p), _, rfl, rfl, ?_⟩
  rw [popPc_callFixed hhigh hlow]
  exact ⟨rfl, hother⟩

/-- At a boundary with a pending NMI and equal flip-flops the step is the NMI entry (R183, R184). -/
theorem step_of_nmiPending {s : State} (hend : s.runEnded = false) (hnmi : s.nmiPending = true)
    (hiff : s.iff1 = s.iff2) : step s = .next s.nmiEntry.latchInputs := by
  have htake : takeNmi s = .next s.nmiEntry := if_pos hiff
  rw [step, hend, hnmi, htake]
  rfl

/-- The pop reads nothing that the end of the step latches. -/
theorem popPc_latchInputs (s : State) : s.latchInputs.popPc = s.popPc.latchInputs := rfl

/-- The pop reads neither IFF1 nor the latch of the request, which are all that the entry changes beside its call. -/
theorem popPc_nmiEntry (s : State) :
    s.nmiEntry.popPc = { (s.callFixed nmiAddress).popPc with iff1 := false, nmiPending := false } := rfl

/-- Settles O33: the return undoes the call of the entry and restores IFF1 from IFF2, which the entry keeps. -/
theorem retnComesBackFromNmi : Obligations.RetnComesBackFromNmi := by
  intro s hend hnmi hiff hhigh hlow
  obtain ⟨-, -, -, hother⟩ := callFixed_calls s nmiAddress
  refine ⟨s.nmiEntry.latchInputs, _, step_of_nmiPending hend hnmi hiff, exec_retn _, ?_⟩
  rw [popPc_latchInputs, popPc_nmiEntry, popPc_callFixed hhigh hlow, latchInputs_iff2, nmiEntry_iff2, ← hiff]
  exact ⟨rfl, hother⟩

end Sys2Proof.Proofs

/-!
PROOFS of the statements of 41_input.md: the inputs of one byte, one iteration of a block input, and whole repeats.

The shape of the last two parts: `exec_repeat` says once what one iteration of any of the four repeats leaves, and
`StoredBlock.succ` what one more transfer adds to a stored block; before the end each is an induction on the
iterations done, and the statement follows by one iteration more.
-/

namespace Sys2Proof.Proofs

open Sys2Proof Sys2Proof.Machine

/-! ### One byte in -/

/-- Settles O34: the read leaves A and the flags, and its byte then goes to A. -/
theorem inAnReadsThePort : Obligations.InAnReadsThePort := fun _ _ => ⟨_, rfl, rfl, fun _ => rfl⟩

/-- An even number of 1 bits is an exclusive or of all bits that is 0 (R24 b, R131). -/
theorem parityEven_eq_not_xor : ∀ v : Byte, parityEven v =
    !(v.getLsbD 0 ^^ v.getLsbD 1 ^^ v.getLsbD 2 ^^ v.getLsbD 3 ^^
      v.getLsbD 4 ^^ v.getLsbD 5 ^^ v.getLsbD 6 ^^ v.getLsbD 7) := by
  decide

/-- The flags of an input change no register. -/
theorem getReg_setInputFlags (s : State) (v : Byte) (y : Reg) : (s.setInputFlags v).getReg y = s.getReg y := by
  cases y <;> rfl

/-- Settles O35: the read keeps the registers, then `r` takes the byte and the flags describe it. -/
theorem inRcReadsThePortAndSetsFlags : Obligations.InRcReadsThePortAndSetsFlags := by
  intro r s
  refine ⟨_, rfl, s.portByte (cat s.b s.c), rfl, ?_, fun y hy => ?_, rfl, beq_eq_decide .., rfl, rfl, ?_,
    parityEven_eq_not_xor _, ?_, fun x => ?_⟩
  · rw [getReg_setInputFlags]
    exact getReg_setReg_same _ r _
  · rw [getReg_setInputFlags, getReg_setReg_other _ hy]
    cases y <;> rfl
  · rw [setInputFlags_f_c, setReg_f, ioRead_f]
  · cases r <;> rfl
  · exact byteAt_of_mem (by rw [setInputFlags_mem, setReg_mem, ioRead_mem]) x

/-! ### One block input -/

/-- Settles O36: INI is the shared transfer, upwards. -/
theorem iniTransfersOneByteIn : Obligations.IniTransfersOneByteIn := fun s => ⟨_, rfl, blockIn_transfers s .up⟩

/-- Settles O38: IND is the shared transfer, downwards. -/
theorem indTransfersOneByteIn : Obligations.IndTransfersOneByteIn := fun s => ⟨_, rfl, blockIn_transfers s .down⟩

/-- Settles O37: an iteration of INIR is the shared transfer and the repeat. -/
theorem inirTransfersOneByteInAndRepeats : Obligations.InirTransfersOneByteInAndRepeats := fun s =>
  ⟨_, rfl, repeatedBlockIn_transfersIn s .up⟩

/-- Settles O39: an iteration of INDR is the shared transfer and the repeat. -/
theorem indrTransfersOneByteInAndRepeats : Obligations.IndrTransfersOneByteInAndRepeats := fun s =>
  ⟨_, rfl, repeatedBlockIn_transfersIn s .down⟩

/-! ### The counter of a repeat -/

theorem iterations_pos (b : Byte) : 0 < iterations b := by
  unfold iterations
  split_ifs <;> bv_omega

theorem iterations_le (b : Byte) : iterations b ≤ 256 := by
  unfold iterations
  split_ifs <;> bv_omega

/-- After `k` iterations the next one brings B to zero exactly where it is the last (R133, R153). -/
theorem sub_sub_one_eq_zero_iff {b : Byte} {k : Nat} (h : k < iterations b) :
    b - BitVec.ofNat 8 k - 1#8 = 0#8 ↔ k + 1 = iterations b := by
  unfold iterations at *
  split_ifs at * <;> bv_omega

/-- After as many iterations as B says, B is zero. -/
theorem sub_iterations (b : Byte) : b - BitVec.ofNat 8 (iterations b) = 0#8 := by
  unfold iterations
  split_ifs <;> bv_omega

/-! ### One iteration of a repeat -/

/-- A word moved `k` times in a direction (R136, R156). -/
def moveBy (dir : Dir) (k : Nat) (w : Word) : Word :=
  match dir with
  | .up => w + BitVec.ofNat 16 k
  | .down => w - BitVec.ofNat 16 k

theorem moveBy_zero (dir : Dir) (w : Word) : moveBy dir 0 w = w := by
  cases dir with
  | up => exact BitVec.add_zero w
  | down => exact BitVec.sub_zero w

theorem moveBy_succ (dir : Dir) (k : Nat) (w : Word) : moveBy dir (k + 1) w = dir.move (moveBy dir k w) := by
  cases dir <;> simp only [moveBy, Dir.move] <;> bv_omega

/-- `t` is `s` after `k` iterations of a repeat, in what does not depend on whether they end it: the counter, HL, the
number of events, and the kept C, SP and carry. -/
structure Iterated (dir : Dir) (k : Nat) (s t : State) : Prop where
  b : t.b = s.b - BitVec.ofNat 8 k
  c : t.c = s.c
  carry : t.f.c = s.f.c
  sp : t.sp = s.sp
  hl : t.hl = moveBy dir k s.hl
  events : t.history.length = s.history.length + k

theorem Iterated.zero (dir : Dir) (s : State) : Iterated dir 0 s s where
  b := (BitVec.sub_zero s.b).symm
  c := rfl
  carry := rfl
  sp := rfl
  hl := (moveBy_zero dir s.hl).symm
  events := rfl

/-- `t` is `s` after one iteration of a repeat at PC (R133, R153). -/
structure Iteration (dir : Dir) (s t : State) : Prop where
  b : t.b = s.b - 1#8
  c : t.c = s.c
  sp : t.sp = s.sp
  hl : t.hl = dir.move s.hl
  events : t.history.length = s.history.length + 1
  z : t.f.z = decide (s.b - 1#8 = 0#8)
  n : t.f.n = true
  carry : t.f.c = s.f.c
  pc : t.pc = if s.b - 1#8 = 0#8 then s.pc + 2#16 else s.pc

theorem Iterated.succ {dir : Dir} {k : Nat} {s u t : State} (hu : Iterated dir k s u) (ht : Iteration dir u t) :
    Iterated dir (k + 1) s t where
  b := by
    rw [ht.b, hu.b]
    bv_omega
  c := ht.c.trans hu.c
  carry := ht.carry.trans hu.carry
  sp := ht.sp.trans hu.sp
  hl := by rw [ht.hl, hu.hl, moveBy_succ]
  events := by rw [ht.events, hu.events, Nat.add_assoc]

/-- One iteration of OTIR or OTDR, everything it does (R153, R155). -/
theorem repeatedBlockOut_transfersOut (s : State) (dir : Dir) :
    s.TransfersOut (s.blockOut dir).repeatUnlessDone (s.readByte s.hl) (dir.move s.hl) s.repeatPc := by
  obtain ⟨-, hbyte, hhl, hflags, hmem⟩ := blockOut_transfers s dir
  exact ⟨rfl, hbyte, hhl, hflags, hmem⟩

/-- PC after an iteration, from PC at the instruction. -/
theorem repeatPc_past (s : State) :
    ({ s with pc := s.pc + 2#16 } : State).repeatPc = if s.b - 1#8 = 0#8 then s.pc + 2#16 else s.pc := by
  rw [State.repeatPc, BitVec.add_sub_cancel]

theorem iteration_blockIn (s : State) (dir : Dir) :
    Iteration dir s (({ s with pc := s.pc + 2#16 } : State).blockIn dir).repeatUnlessDone := by
  obtain ⟨hframe, hhl, ⟨hz, hn, hcarry⟩, -, -⟩ := repeatedBlockIn_transfersIn { s with pc := s.pc + 2#16 } dir
  rw [repeatPc_past] at hframe
  exact ⟨rfl, rfl, rfl, hhl, List.length_append, hz, hn, hcarry, congrArg State.pc hframe⟩

theorem iteration_blockOut (s : State) (dir : Dir) :
    Iteration dir s (({ s with pc := s.pc + 2#16 } : State).blockOut dir).repeatUnlessDone := by
  obtain ⟨hframe, -, hhl, ⟨hz, hn, hcarry⟩, -⟩ := repeatedBlockOut_transfersOut { s with pc := s.pc + 2#16 } dir
  rw [repeatPc_past] at hframe
  exact ⟨rfl, rfl, rfl, hhl, List.length_append, hz, hn, hcarry, congrArg State.pc hframe⟩

theorem repeats_iff (x : Instr) : repeats x = true ↔ x = .inir ∨ x = .indr ∨ x = .otir ∨ x = .otdr := by
  cases x <;> simp [repeats]

/-- The direction in which a repeat moves HL (R133, R135, R153, R155). -/
def repeatDir (x : Instr) : Dir := if x = .inir ∨ x = .otir then .up else .down

theorem moveBy_repeatDir (x : Instr) (k : Nat) (w : Word) : moveBy (repeatDir x) k w =
    if x = .inir ∨ x = .otir then w + BitVec.ofNat 16 k else w - BitVec.ofNat 16 k := by
  unfold repeatDir
  split_ifs <;> rfl

/-- One execution of a repeat from its address is one iteration. -/
theorem exec_repeat {x : Instr} (hx : repeats x = true) (s : State) :
    ∃ t, exec x { s with pc := s.pc + 2#16 } = .next t ∧ Iteration (repeatDir x) s t := by
  obtain rfl | rfl | rfl | rfl := (repeats_iff x).1 hx
  · exact ⟨_, rfl, iteration_blockIn s .up⟩
  · exact ⟨_, rfl, iteration_blockIn s .down⟩
  · exact ⟨_, rfl, iteration_blockOut s .up⟩
  · exact ⟨_, rfl, iteration_blockOut s .down⟩

/-- The T states of one iteration: 16 for the last one, 21 for any other (R220). -/
theorem sum_tStates_repeat {x : Instr} (hx : repeats x = true) (s : State) :
    (tStates x s).sum = if s.b - 1#8 = 0#8 then 16 else 21 := by
  have hlast : s.b - 1#8 = 0#8 ↔ s.b = 1#8 := sub_eq_zero
  obtain rfl | rfl | rfl | rfl := (repeats_iff x).1 hx <;>
    · simp only [tStates, hlast]
      split_ifs <;> rfl

/-! ### Whole repeats -/

/-- One execution more adds its T states to those of the executions before it. -/
theorem iterate_succ {x : Instr} {k n : Nat} {s u t : State} (hu : iterate x k s = .next (u, n))
    (ht : exec x { u with pc := u.pc + 2#16 } = .next t) :
    iterate x (k + 1) s = .next (t, n + (tStates x u).sum) := by
  induction k generalizing s n with
  | zero =>
    cases hu
    simp [iterate, ht]
  | succ k ih =>
    rw [iterate] at hu ⊢
    split at hu
    · cases hu
    · cases hu
    next v hv =>
      split at hu
      next w m hw =>
        cases hu
        simp only [ih hw, Nat.add_assoc]
      · cases hu
      · cases hu

/-- Before the end of a repeat PC is back at it, and every iteration took 21 T states. -/
theorem iterate_before_end {x : Instr} (hx : repeats x = true) {s : State} {k : Nat} (hk : k < iterations s.b) :
    ∃ u, iterate x k s = .next (u, 21 * k) ∧ u.pc = s.pc ∧ Iterated (repeatDir x) k s u := by
  induction k with
  | zero => exact ⟨s, rfl, rfl, .zero _ s⟩
  | succ k ih =>
    obtain ⟨u, hu, hpc, hiter⟩ := ih (Nat.lt_of_succ_lt hk)
    obtain ⟨t, ht, hstep⟩ := exec_repeat hx u
    have hmore : u.b - 1#8 ≠ 0#8 := by
      rw [hiter.b, Ne, sub_sub_one_eq_zero_iff (Nat.lt_of_succ_lt hk)]
      exact hk.ne
    refine ⟨t, ?_, ?_, hiter.succ hstep⟩
    · rw [iterate_succ hu ht, sum_tStates_repeat hx, if_neg hmore, Nat.mul_succ]
    · rw [hstep.pc, if_neg hmore, hpc]

/-- Settles O46: all iterations but one leave PC at the repeat, and the last one brings B to zero. -/
theorem repeatTakesAsManyIterationsAsB : Obligations.RepeatTakesAsManyIterationsAsB := by
  intro x s hx
  constructor
  · obtain ⟨n, hn⟩ := Nat.exists_eq_add_one.2 (iterations_pos s.b)
    have hlt : n < iterations s.b := hn ▸ Nat.lt_succ_self n
    obtain ⟨u, hu, hpc, hiter⟩ := iterate_before_end hx hlt
    obtain ⟨t, ht, hstep⟩ := exec_repeat hx u
    have hdone : u.b - 1#8 = 0#8 := by rw [hiter.b, sub_sub_one_eq_zero_iff hlt, hn]
    have hall := hiter.succ hstep
    rw [← hn] at hall
    refine ⟨t, ?_, by rw [hstep.b, hdone], hall.c, by rw [hstep.z, decide_eq_true hdone], hstep.n, hall.carry,
      by rw [hstep.pc, if_pos hdone, hpc], hall.sp, by rw [hall.hl, moveBy_repeatDir], hall.events⟩
    rw [hn, iterate_succ hu ht, sum_tStates_repeat hx, if_pos hdone, Nat.add_sub_cancel]
  · intro k hk
    obtain ⟨u, hu, hpc, hiter⟩ := iterate_before_end hx hk
    exact ⟨u, _, hu, hpc, hiter.b⟩

/-! ### Steps from an INIR -/

/-- One step more than a run. -/
theorem run_succ {M : Host.Core} {k : Nat} {s u t : M.State} (hu : M.run k s = .next u) (ht : M.step u = .next t) :
    M.run (k + 1) s = .next t := by
  induction k generalizing s with
  | zero =>
    cases hu
    simp [Host.Core.run, ht]
  | succ k ih =>
    rw [Host.Core.run] at hu ⊢
    split at hu
    next v hv => exact ih hu
    · cases hu
    · cases hu

/-- The reads of the first `k` iterations of an INIR, with the port's bytes ready (R132, R133). -/
def readEvents (s : State) (k : Nat) : List Event :=
  (List.range k).map fun j => .ioRead (cat (s.b - BitVec.ofNat 8 j) s.c) (s.portBytes.getD j 0#8)

theorem readEvents_succ (s : State) (k : Nat) : readEvents s (k + 1) =
    readEvents s k ++ [.ioRead (cat (s.b - BitVec.ofNat 8 k) s.c) (s.portBytes.getD k 0#8)] := by
  simp [readEvents, List.range_succ]

/-- `t` is `s` after `k` iterations of an INIR with the port's bytes ready, wherever they leave PC: that many bytes of
the port are stored from HL on, and no other byte is changed. -/
structure StoredBlock (s : State) (k : Nat) (t : State) : Prop where
  frame : t = { s with
    b := s.b - BitVec.ofNat 8 k, h := t.h, l := t.l, f := t.f, pc := t.pc, mem := t.mem, draws := t.draws
    portBytes := s.portBytes.drop k, history := s.history ++ readEvents s k }
  hl : t.hl = s.hl + BitVec.ofNat 16 k
  carry : t.f.c = s.f.c
  stored : ∀ j < k, t.byteAt (s.hl + BitVec.ofNat 16 j) = s.portBytes.getD j 0#8
  kept : ∀ x : Word, (∀ j < k, x ≠ s.hl + BitVec.ofNat 16 j) → t.byteAt x = s.byteAt x

theorem StoredBlock.zero (s : State) : StoredBlock s 0 s where
  frame := by simp [readEvents]
  hl := (BitVec.add_zero s.hl).symm
  carry := rfl
  stored := fun _ h => absurd h (Nat.not_lt_zero _)
  kept := fun _ _ => rfl

theorem StoredBlock.b {s t : State} {k : Nat} (h : StoredBlock s k t) : t.b = s.b - BitVec.ofNat 8 k := by
  rw [h.frame]

theorem StoredBlock.kindAt {s t : State} {k : Nat} (h : StoredBlock s k t) (x : Word) : t.kindAt x = s.kindAt x :=
  kindAt_of_memMap (by rw [h.frame]) x

/-- The next byte of the port is the one after those used up. -/
theorem StoredBlock.portByte {s t : State} {k : Nat} (h : StoredBlock s k t) (hk : k < s.portBytes.length)
    (port : Word) : t.portByte port = s.portBytes.getD k 0#8 := by
  have hbytes : t.portBytes = s.portBytes.drop k := by rw [h.frame]
  rw [State.portByte, hbytes, List.drop_eq_getElem_cons hk, List.getD_eq_getElem _ _ hk]

/-- One transfer more stores one byte more. -/
theorem StoredBlock.succ {s u t : State} {k : Nat} {pc' : Word} (hu : StoredBlock s k u)
    (ht : u.TransfersIn t (u.hl + 1#16) pc') (hram : s.Writable (s.hl + BitVec.ofNat 16 k))
    (hport : k < s.portBytes.length) (hk : k < 65536) : StoredBlock s (k + 1) t := by
  obtain ⟨hframe, hhl, ⟨-, -, hcarry⟩, hstored, hkept⟩ := ht
  have huram : u.Writable (s.hl + BitVec.ofNat 16 k) := (hu.kindAt _).trans hram
  rw [hu.portByte hport, hu.hl, if_pos huram] at hstored
  rw [hu.hl] at hkept
  refine ⟨?_, ?_, hcarry.trans hu.carry, fun j hj => ?_, fun x hx => ?_⟩
  · rw [hu.portByte hport] at hframe
    obtain ⟨h, l, f, pc, mem, draws, rfl⟩ : ∃ h l f pc mem draws, u = { s with
        b := s.b - BitVec.ofNat 8 k, h := h, l := l, f := f, pc := pc, mem := mem, draws := draws
        portBytes := s.portBytes.drop k, history := s.history ++ readEvents s k } :=
      ⟨_, _, _, _, _, _, hu.frame⟩
    have hb : s.b - BitVec.ofNat 8 (k + 1) = s.b - BitVec.ofNat 8 k - 1#8 := by bv_omega
    rw [readEvents_succ, hb, ← List.tail_drop, ← List.append_assoc]
    have hpc : t.pc = pc' := congrArg State.pc hframe
    rw [hpc]
    exact hframe
  · rw [hhl, hu.hl]
    bv_omega
  · obtain hlt | rfl := Nat.lt_succ_iff_lt_or_eq.1 hj
    · rw [hkept _ (by bv_omega), hu.stored j hlt]
    · exact hstored
  · rw [hkept x (hx k (Nat.lt_succ_self k)), hu.kept x fun j hj => hx j (Nat.lt_succ_of_lt hj)]

/-- What O48 asks of the state before an INIR: nothing else happens, memory is ram, and no iteration stores over the
instruction or waits for a byte of the port. -/
structure InirReady (s : State) : Prop where
  quiet : s.Quiet
  ram : ∀ x : Word, s.Writable x
  first : s.byteAt s.pc = 0xED#8
  second : s.byteAt (s.pc + 1#16) = 0xB2#8
  port : iterations s.b ≤ s.portBytes.length
  apart : ∀ k < iterations s.b, s.hl + BitVec.ofNat 16 k ≠ s.pc ∧ s.hl + BitVec.ofNat 16 k ≠ s.pc + 1#16

/-- A step in the course of an INIR stores one byte more; PC is behind the instruction after the last one. -/
theorem InirReady.step {s u : State} {k : Nat} (hs : InirReady s) (hk : k < iterations s.b) (hquiet : u.Quiet)
    (hpc : u.pc = s.pc) (hu : StoredBlock s k u) :
    ∃ t, Machine.step u = .next t ∧ t.Quiet ∧ StoredBlock s (k + 1) t ∧
      t.f.z = decide (k + 1 = iterations s.b) ∧ t.f.n = true ∧
      t.pc = if k + 1 = iterations s.b then s.pc + 2#16 else s.pc := by
  have hpresent : ∀ x, u.Present x := fun x => present_of_writable ((hu.kindAt x).trans (hs.ram x))
  have hfirst : u.byteAt u.pc = 0xED#8 := by
    rw [hpc, hu.kept _ fun j hj => (hs.apart j (hj.trans hk)).1.symm, hs.first]
  have hsecond : u.byteAt (u.pc + 1#16) = 0xB2#8 := by
    rw [hpc, hu.kept _ fun j hj => (hs.apart j (hj.trans hk)).2.symm, hs.second]
  obtain ⟨t, hstep, htquiet, htransfer⟩ := step_inir hquiet (hpresent _) (hpresent _) hfirst hsecond
  have hblock := hu.succ htransfer (hs.ram _) (hk.trans_le hs.port)
    (hk.trans_le ((iterations_le s.b).trans (by decide)))
  obtain ⟨hframe, -, ⟨hz, hn, -⟩, -, -⟩ := htransfer
  refine ⟨t, hstep, htquiet, hblock, ?_, hn, ?_⟩
  · rw [hz, hu.b, decide_eq_decide, sub_sub_one_eq_zero_iff hk]
  · rw [congrArg State.pc hframe, hu.b, hpc]
    simp only [sub_sub_one_eq_zero_iff hk]

/-- Before its end an INIR has PC at it and has stored as many bytes as it did steps. -/
theorem InirReady.run_before_end {s : State} (hs : InirReady s) {k : Nat} (hk : k < iterations s.b) :
    ∃ u, Host.Core.run Sys2Proof.core k s = .next u ∧ u.Quiet ∧ u.pc = s.pc ∧ StoredBlock s k u := by
  induction k with
  | zero => exact ⟨s, rfl, hs.quiet, rfl, .zero s⟩
  | succ k ih =>
    obtain ⟨u, hrun, hquiet, hpc, hu⟩ := ih (Nat.lt_of_succ_lt hk)
    obtain ⟨t, hstep, htquiet, ht, -, -, htpc⟩ := hs.step (Nat.lt_of_succ_lt hk) hquiet hpc hu
    exact ⟨t, run_succ hrun hstep, htquiet, htpc.trans (if_neg hk.ne), ht⟩

/-- Settles O48: all steps but one leave PC at the INIR, and the last one stores the last byte. -/
theorem inirStepsStoreTheBlock : Obligations.InirStepsStoreTheBlock := by
  intro s hquiet hram hfirst hsecond hport hapart
  have hs : InirReady s := ⟨hquiet, hram, hfirst, hsecond, hport, hapart⟩
  obtain ⟨n, hn⟩ := Nat.exists_eq_add_one.2 (iterations_pos s.b)
  have hlt : n < iterations s.b := hn ▸ Nat.lt_succ_self n
  obtain ⟨u, hrun, huquiet, hpc, hu⟩ := hs.run_before_end hlt
  obtain ⟨t, hstep, -, ht, hz, hnflag, htpc⟩ := hs.step hlt huquiet hpc hu
  rw [← hn] at ht hz htpc
  refine ⟨t, hn ▸ run_succ hrun hstep, ?_, ht.hl, by rw [hz]; exact decide_eq_true rfl, hnflag, ht.carry, ht.stored,
    ht.kept⟩
  have hframe := ht.frame
  rw [sub_iterations, htpc, if_pos rfl] at hframe
  exact hframe

end Sys2Proof.Proofs

/-!
PROOFS of the statements of 42_output.md: the outputs of one byte, one iteration of a block output, and the whole block
that an OTIR sends.

The shape of the last part: `step_otir` says what one step from an OTIR leaves, `SentBlock.succ` what one more transfer
adds to a sent block, and `OtirReady.run_succ_sends` is the induction on the steps, whose last case is the statement.
-/

namespace Sys2Proof.Proofs

open Sys2Proof Sys2Proof.Machine

/-! ### One byte out -/

/-- Settles O40: the write of A adds its event to the history, and that is its whole effect (R58). -/
theorem outNaWritesThePort : Obligations.OutNaWritesThePort := fun _ _ => ⟨_, rfl, rfl, fun _ => rfl⟩

/-- Settles O41: the write of `r` adds its event to the history, and that is its whole effect (R58). -/
theorem outCrWritesThePort : Obligations.OutCrWritesThePort := fun _ _ => ⟨_, rfl, rfl, fun _ => rfl⟩

/-! ### One block output -/

/-- Settles O42: OUTI is the shared transfer, upwards. -/
theorem outiTransfersOneByteOut : Obligations.OutiTransfersOneByteOut := fun s =>
  ⟨_, _, rfl, blockOut_transfers s .up⟩

/-- Settles O44: OUTD is the shared transfer, downwards. -/
theorem outdTransfersOneByteOut : Obligations.OutdTransfersOneByteOut := fun s =>
  ⟨_, _, rfl, blockOut_transfers s .down⟩

/-- Settles O43: an iteration of OTIR is the shared transfer and the repeat. -/
theorem otirTransfersOneByteOutAndRepeats : Obligations.OtirTransfersOneByteOutAndRepeats := fun s =>
  ⟨_, _, rfl, repeatedBlockOut_transfersOut s .up⟩

/-- Settles O45: an iteration of OTDR is the shared transfer and the repeat. -/
theorem otdrTransfersOneByteOutAndRepeats : Obligations.OtdrTransfersOneByteOutAndRepeats := fun s =>
  ⟨_, _, rfl, repeatedBlockOut_transfersOut s .down⟩

/-! ### Steps from an OTIR -/

/-- A step from an OTIR while nothing else happens: one iteration, after which PC is past the instruction where B has
reached zero and back at it otherwise (R137, R153). -/
theorem step_otir {s : State} (hs : s.Quiet) (h0 : s.Present s.pc) (h1 : s.Present (s.pc + 1#16))
    (hfirst : s.byteAt s.pc = 0xED#8) (hsecond : s.byteAt (s.pc + 1#16) = 0xB3#8) :
    ∃ t : State, step s = .next t ∧
      s.TransfersOut t (s.readByte s.hl) (s.hl + 1#16) (if s.b - 1#8 = 0#8 then s.pc + 2#16 else s.pc) := by
  have hdecode : decode [s.byteAt s.pc, s.byteAt (s.pc + 1#16)] = .instr .otir [] := by
    rw [hfirst, hsecond]
    decide
  have hiter := repeatedBlockOut_transfersOut { s with pc := s.pc + 2#16 } .up
  rw [repeatPc_past] at hiter
  refine ⟨(({ s with pc := s.pc + 2#16 } : State).blockOut .up).repeatUnlessDone, ?_, hiter⟩
  rw [step_of_decode_instr (fetches_of_quiet hs) h0 h1 hdecode]
  obtain ⟨-, -, -, hinputs⟩ := hs
  exact congrArg Host.Outcome.next (latchInputs_of_inputs_nil hinputs)

/-- The writes of the first `k` iterations of an OTIR (R153). -/
def writeEvents (s : State) (k : Nat) : List Event :=
  (List.range k).map fun j => .ioWrite (cat (s.b - 1#8 - BitVec.ofNat 8 j) s.c) (s.byteAt (s.hl + BitVec.ofNat 16 j))

theorem writeEvents_succ (s : State) (k : Nat) : writeEvents s (k + 1) = writeEvents s k ++
    [.ioWrite (cat (s.b - 1#8 - BitVec.ofNat 8 k) s.c) (s.byteAt (s.hl + BitVec.ofNat 16 k))] := by
  simp [writeEvents, List.range_succ]

/-- `t` is `s` after `k` iterations of an OTIR that leave PC at `pc'`: that many bytes from HL on are sent. -/
structure SentBlock (s : State) (k : Nat) (pc' : Word) (t : State) : Prop where
  frame : t = { s with
    b := s.b - BitVec.ofNat 8 k, h := t.h, l := t.l, f := t.f, pc := pc', draws := t.draws
    history := s.history ++ writeEvents s k }
  hl : t.hl = s.hl + BitVec.ofNat 16 k
  carry : t.f.c = s.f.c

theorem SentBlock.zero (s : State) : SentBlock s 0 s.pc s where
  frame := by simp [writeEvents]
  hl := (BitVec.add_zero s.hl).symm
  carry := rfl

section
variable {s t : State} {k : Nat} {pc' : Word} (h : SentBlock s k pc' t)
include h

theorem SentBlock.b : t.b = s.b - BitVec.ofNat 8 k := by rw [h.frame]

theorem SentBlock.pc : t.pc = pc' := by rw [h.frame]

theorem SentBlock.kindAt (x : Word) : t.kindAt x = s.kindAt x := kindAt_of_memMap (by rw [h.frame]) x

theorem SentBlock.byteAt (x : Word) : t.byteAt x = s.byteAt x := byteAt_of_mem (by rw [h.frame]) x

/-- An OTIR changes nothing that a boundary samples. -/
theorem SentBlock.quiet (hs : s.Quiet) : t.Quiet := by
  rw [h.frame]
  exact hs

end

/-- One transfer more sends one byte more. -/
theorem SentBlock.succ {s u t : State} {k : Nat} {pc pc' : Word} {v : Byte} (hu : SentBlock s k pc u)
    (ht : u.TransfersOut t v (u.hl + 1#16) pc') (hpresent : s.Present (s.hl + BitVec.ofNat 16 k)) :
    SentBlock s (k + 1) pc' t := by
  obtain ⟨hframe, hbyte, hhl, ⟨-, -, hcarry⟩, -⟩ := ht
  have hv : v = s.byteAt (s.hl + BitVec.ofNat 16 k) := by
    rw [hu.hl, hu.byteAt, State.Present, hu.kindAt] at hbyte
    exact hbyte hpresent
  refine ⟨?_, ?_, hcarry.trans hu.carry⟩
  · have hb : s.b - BitVec.ofNat 8 (k + 1) = s.b - BitVec.ofNat 8 k - 1#8 := by bv_omega
    have hport : s.b - 1#8 - BitVec.ofNat 8 k = s.b - BitVec.ofNat 8 k - 1#8 := sub_right_comm ..
    rw [writeEvents_succ, hb, hport, ← hv, ← List.append_assoc]
    refine hframe.trans ?_
    rw [hu.frame]
  · rw [hhl, hu.hl]
    bv_omega

/-- What O47 asks of the state before an OTIR: nothing else happens, and every address holds storage. -/
structure OtirReady (s : State) : Prop where
  quiet : s.Quiet
  present : ∀ x : Word, s.Present x
  first : s.byteAt s.pc = 0xED#8
  second : s.byteAt (s.pc + 1#16) = 0xB3#8

/-- PC after `k` iterations of a repeat at PC: behind it after the last one, at it before. -/
def pcAfter (s : State) (k : Nat) : Word := if k = iterations s.b then s.pc + 2#16 else s.pc

/-- A step in the course of an OTIR sends one byte more, and sets Z at the last one. -/
theorem OtirReady.step {s u : State} {k : Nat} (hs : OtirReady s) (hk : k < iterations s.b)
    (hu : SentBlock s k s.pc u) :
    ∃ t, Machine.step u = .next t ∧ SentBlock s (k + 1) (pcAfter s (k + 1)) t ∧
      t.f.z = decide (k + 1 = iterations s.b) ∧ t.f.n = true := by
  have hpresent : ∀ x, u.Present x := fun x => by
    rw [State.Present, hu.kindAt]
    exact hs.present x
  obtain ⟨t, hstep, htransfer⟩ := step_otir (hu.quiet hs.quiet) (hpresent _) (hpresent _)
    (by rw [hu.pc, hu.byteAt, hs.first]) (by rw [hu.pc, hu.byteAt, hs.second])
  simp only [hu.b, hu.pc, sub_sub_one_eq_zero_iff hk] at htransfer
  have hsent := hu.succ htransfer (hs.present _)
  obtain ⟨-, -, -, ⟨hz, hn, -⟩, -⟩ := htransfer
  rw [hu.b] at hz
  exact ⟨t, hstep, hsent, by rw [hz, decide_eq_decide, sub_sub_one_eq_zero_iff hk], hn⟩

/-- Up to its end an OTIR sends as many bytes as it does steps; before the end PC is back at it. -/
theorem OtirReady.run_succ_sends {s : State} (hs : OtirReady s) {k : Nat} (hk : k < iterations s.b) :
    ∃ t, Host.Core.run Sys2Proof.core (k + 1) s = .next t ∧ SentBlock s (k + 1) (pcAfter s (k + 1)) t ∧
      t.f.z = decide (k + 1 = iterations s.b) ∧ t.f.n = true := by
  induction k with
  | zero =>
    obtain ⟨t, hstep, ht⟩ := hs.step hk (.zero s)
    exact ⟨t, run_succ rfl hstep, ht⟩
  | succ k ih =>
    obtain ⟨u, hrun, hu, -, -⟩ := ih (Nat.lt_of_succ_lt hk)
    rw [pcAfter, if_neg hk.ne] at hu
    obtain ⟨t, hstep, ht⟩ := hs.step hk hu
    exact ⟨t, run_succ hrun hstep, ht⟩

/-- Settles O47: the last of its steps brings B to zero and leaves PC behind the OTIR. -/
theorem otirStepsSendTheBlock : Obligations.OtirStepsSendTheBlock := by
  intro s hquiet hpresent hfirst hsecond
  have hs : OtirReady s := ⟨hquiet, hpresent, hfirst, hsecond⟩
  obtain ⟨n, hn⟩ := Nat.exists_eq_add_one.2 (iterations_pos s.b)
  have hlt : n < iterations s.b := hn ▸ Nat.lt_succ_self n
  obtain ⟨t, hrun, ht, hz, hnflag⟩ := hs.run_succ_sends hlt
  rw [← hn] at hrun ht hz
  have hframe := ht.frame
  rw [sub_iterations, pcAfter, if_pos rfl] at hframe
  exact ⟨t, hrun, hframe, ht.hl, hz.trans (decide_eq_true rfl), hnflag, ht.carry⟩

end Sys2Proof.Proofs

/-!
PROOFS of the statements of 60_exceptions.md: the non-maskable interrupt, the daisy chain, and what a step latches.

The shape of the last part: the environment of a step is its list of inputs and its chain. A fetch and a meaning
commute with the replacement of both (`fetchInstr_withPlatform`, `exec_withPlatform`), so that `step_withPlatform` says
once where a step comes to under any environment; the statements on requests follow from it.
-/

namespace Sys2Proof.Proofs

open Sys2Proof Sys2Proof.Machine

/-! ### The non-maskable interrupt -/

/-- Settles O8: the entry is the shared call to 0066H, with IFF1 and the request cleared. -/
theorem nmiEntryIsTaken : Obligations.NmiEntryIsTaken := by
  intro s hend hnmi hiff
  exact ⟨s.callFixed nmiAddress, callFixed_calls s nmiAddress, step_of_nmiPending hend hnmi hiff⟩

/-- Settles O9: the entry's own test refuses. -/
theorem nestedNmiIsRefused : Obligations.NestedNmiIsRefused := by
  intro s hend hnmi hiff
  have htake : takeNmi s = .refused .nestedNmi := if_neg hiff
  rw [step, hend, hnmi, htake]
  rfl

/-! ### Instructions do not raise -/

/-- Settles O15: every meaning has an effect, and a step that is not the NMI entry is a meaning. -/
theorem noInstructionRaises : Obligations.NoInstructionRaises := by
  refine ⟨fun x s => ?_, fun s t h => ?_⟩
  · obtain ⟨t, hexec, -⟩ := exec_effect x s
    exact ⟨t, hexec⟩
  · obtain ⟨hnmi, -, -⟩ | ⟨x, u, v, -, hfetch, hexec, ht⟩ := step_cases h
    · exact .inl hnmi
    · exact .inr ⟨x, u, v, hfetch, hexec, ht⟩

/-! ### The daisy chain -/

/-- Devices that are not under service keep their states, and the signal goes on behind them (R189). -/
theorem retiDone_append {hiPart : Chain} (h : ∀ d ∈ hiPart, d ≠ .underService) (ch : Chain) :
    Chain.retiDone (hiPart ++ ch) = hiPart ++ Chain.retiDone ch := by
  induction hiPart with
  | nil => rfl
  | cons d hiPart ih =>
    obtain ⟨hd, hrest⟩ := List.forall_mem_cons.1 h
    cases d with
    | underService => exact absurd rfl hd
    | idle | requesting => exact congrArg (List.cons _) (ih hrest)

/-- A request is seen before the first device under service, and not behind it (R187). -/
theorem requests_append_underService {hiPart : Chain} (h : ∀ d ∈ hiPart, d ≠ .underService) (loPart : Chain) :
    Chain.requests (hiPart ++ .underService :: loPart) = true ↔ .requesting ∈ hiPart := by
  induction hiPart with
  | nil => simp [Chain.requests]
  | cons d hiPart ih =>
    obtain ⟨hd, hrest⟩ := List.forall_mem_cons.1 h
    cases d with
    | underService => exact absurd rfl hd
    | requesting => simp [Chain.requests]
    | idle => simpa [Chain.requests] using ih hrest

/-- Settles O53: the signal and the sight of a request both pass the devices before the first under service. -/
theorem daisyChainServesByPriority : Obligations.DaisyChainServesByPriority := by
  intro hiPart loPart h
  refine ⟨retiDone_append h _, ?_, requests_append_underService h loPart⟩
  simpa [Chain.retiDone] using retiDone_append h []

/-- The signal leaves a requesting device requesting (R189). -/
theorem retiDone_keeps_requesting {ch : Chain} {k : Nat} (h : ch[k]? = some .requesting) :
    (Chain.retiDone ch)[k]? = some .requesting := by
  induction ch generalizing k with
  | nil => exact h
  | cons d ch ih =>
    cases k with
    | zero =>
      obtain rfl : d = .requesting := by simpa using h
      rfl
    | succ k =>
      cases d with
      | underService => exact h
      | idle | requesting => exact ih h

/-- A requesting device stays so while devices raise requests (R35 b). -/
theorem raise_keeps_requesting {ch : Chain} {k : Nat} (h : ch[k]? = some .requesting) (ks : List Nat) :
    (Chain.raise ch ks)[k]? = some .requesting := by
  rw [idleDevicesRaiseRequests, h]
  simp

/-! ### A step under another environment -/

/-- `s` with no request pending, and with these inputs and this chain in place of its own. -/
def withPlatform (s : State) (ys : List PlatformInput) (ch : Chain) : State :=
  { s with inputs := ys, nmiPending := false, chain := ch }

/-- What an instruction does to the chain: RETI ends a service, and no other instruction acts on it (R188). -/
def chainEffect (x : Instr) (ch : Chain) : Chain := if x = .reti then Chain.retiDone ch else ch

/-- What commutes with the fetch of a byte commutes with the fetch of an instruction. -/
theorem fetchInstr_map {g : State → State} (hg : ∀ v, (g v).fetchByte = (v.fetchByte.1, g v.fetchByte.2)) (s : State) :
    fetchInstr (g s) = mapFetched g (fetchInstr s) := by
  unfold fetchInstr
  simp only [hg]
  cases decodeFirst s.fetchByte.1 with
  | done x => rfl
  | unspecified => rfl
  | more k =>
    simp only
    cases decodeSecond k s.fetchByte.2.fetchByte.1 <;> rfl

theorem fetchInstr_withPlatform (s : State) (ys : List PlatformInput) (ch : Chain) :
    fetchInstr (withPlatform s ys ch) = mapFetched (fun t => withPlatform t ys ch) (fetchInstr s) :=
  fetchInstr_map (g := fun t => withPlatform t ys ch) (fun _ => rfl) s

theorem exec_withPlatform (x : Instr) (s : State) (ys : List PlatformInput) (ch : Chain) :
    exec x (withPlatform s ys ch) = mapNext (fun t => withPlatform t ys (chainEffect x ch)) (exec x s) := by
  cases x with
  | retCc cc =>
    show (if condHolds cc s.f then _ else _) = mapNext _ (if condHolds cc s.f then _ else _)
    split <;> rfl
  | inRC r => cases r <;> rfl
  | _ => rfl

/-- A step that goes on does not start where the run ends (R213). -/
theorem runEnded_of_step {s t : State} (h : step s = .next t) : s.runEnded = false := by
  by_contra hend
  rw [step, if_pos (by simpa using hend)] at h
  cases h

/-- A step that goes on and is not an NMI entry meets no request that the CPU sees (R186). -/
theorem maskableSeen_of_step {s t : State} (h : step s = .next t) (hnmi : s.nmiPending = false) :
    s.maskableSeen = false := by
  obtain ⟨hpending, -, -⟩ | ⟨-, -, -, ⟨-, -, hmask⟩, -⟩ := step_cases h
  · exact absurd (hnmi.symm.trans hpending) (by decide)
  · exact hmask

/-- A step that starts with RETI and not with an NMI entry: it ends a service. -/
def EndsService (s : State) : Prop := s.nmiPending = false ∧ ∃ u : State, fetchInstr s = .instr .reti u

/-- The step from `s` to `t` is the same under any inputs and any chain that the CPU does not see, but for what it
latches: `g` acts on the chain, and then the inputs are latched. -/
def StepsUnderAnyPlatform (g : Chain → Chain) (s t : State) : Prop :=
  ∀ (ys : List PlatformInput) (ch : Chain), (s.nmiPending = false → (withPlatform s ys ch).maskableSeen = false) →
    step { s with inputs := ys, chain := ch } = .next (withPlatform t ys (g ch)).latchInputs

/-- An NMI entry leaves the chain alone, and an instruction acts on it by its own effect. -/
theorem step_withPlatform {s t : State} (h : step s = .next t) :
    ∃ g : Chain → Chain, (EndsService s → g = Chain.retiDone) ∧ (¬ EndsService s → g = id) ∧
      StepsUnderAnyPlatform g s t := by
  have hend := runEnded_of_step h
  obtain ⟨hnmi, hiff, rfl⟩ | ⟨x, u, v, ⟨-, hnmi, -⟩, hfetch, hexec, rfl⟩ := step_cases h
  · refine ⟨id, fun ⟨hclear, _⟩ => absurd (hnmi.symm.trans hclear) (by decide), fun _ => rfl, fun ys ch _ => ?_⟩
    exact step_of_nmiPending (s := { s with inputs := ys, chain := ch }) hend hnmi hiff
  · refine ⟨chainEffect x, fun ⟨_, w, hreti⟩ => ?_, fun hno => ?_, fun ys ch hmask => ?_⟩
    · cases hfetch.symm.trans hreti
      rfl
    · have hx : x ≠ .reti := fun hx => hno ⟨hnmi, u, hx ▸ hfetch⟩
      exact funext fun ch => if_neg hx
    · have hs : ({ s with inputs := ys, chain := ch } : State) = withPlatform s ys ch := by rw [withPlatform, ← hnmi]
      have hfetches : (withPlatform s ys ch).Fetches := ⟨hend, rfl, hmask hnmi⟩
      rw [hs, step_of_fetches hfetches, fetchInstr_withPlatform, hfetch]
      simp only [mapFetched, exec_withPlatform, hexec]
      rfl

/-- Its own platform is one of those. -/
theorem StepsUnderAnyPlatform.own {g : Chain → Chain} {s t : State} (hg : StepsUnderAnyPlatform g s t)
    (h : step s = .next t) : t = (withPlatform t s.inputs (g s.chain)).latchInputs :=
  Host.Outcome.next.inj (h.symm.trans (hg s.inputs s.chain (maskableSeen_of_step h)))

/-! ### Requests -/

/-- With IFF1 = 0 a step is the same but for the chain (R186). -/
theorem step_with_chain {s t : State} (hiff : s.iff1 = false) (h : step s = .next t) (ch : Chain) :
    ∃ ch' : Chain, step { s with chain := ch } = .next { t with chain := ch' } := by
  obtain ⟨g, -, -, hg⟩ := step_withPlatform h
  have hunseen : (withPlatform s s.inputs ch).maskableSeen = false := by
    show (s.iff1 && Chain.requests ch) = false
    rw [hiff, Bool.false_and]
  refine ⟨Chain.raise (g ch) (devicesRaised s.inputs), (hg s.inputs ch fun _ => hunseen).trans ?_⟩
  conv_rhs => rw [hg.own h]
  rfl

/-- Neither an instruction's effect on the chain nor the latching takes back a request (R186, R189). -/
theorem step_keeps_requesting {s t : State} (h : step s = .next t) {k : Nat} (hk : s.chain[k]? = some .requesting) :
    t.chain[k]? = some .requesting := by
  obtain ⟨g, hreti, hother, hg⟩ := step_withPlatform h
  have hgk : (g s.chain)[k]? = some .requesting := by
    by_cases hends : EndsService s
    · rw [hreti hends]
      exact retiDone_keeps_requesting hk
    · rw [hother hends]
      exact hk
  rw [hg.own h]
  exact raise_keeps_requesting hgk _

/-- Settles O10: the test of the boundary refuses, and the rest is what a step keeps under another chain and its own. -/
theorem maskableRequestsNeedIff1 : Obligations.MaskableRequestsNeedIff1 := by
  refine ⟨fun s hend hnmi hiff hreq => ?_, fun s t ch hiff h => step_with_chain hiff h ch,
    fun s t k h hk => step_keeps_requesting h hk⟩
  have hseen : s.maskableSeen = true := by
    rw [State.maskableSeen, hiff, hreq]
    rfl
  rw [step, hend, hnmi, hseen]
  rfl

/-- Settles O55: the inputs are replaced, and the chain stays the step's own. -/
theorem requestsAreSampledAtTheNextBoundary : Obligations.RequestsAreSampledAtTheNextBoundary := by
  intro s t h
  obtain ⟨g, hreti, hother, hg⟩ := step_withPlatform h
  have ht := hg.own h
  have hstep : ∀ ys : List PlatformInput,
      step { s with inputs := ys } = .next (withPlatform t ys (g s.chain)).latchInputs :=
    fun ys => hg ys s.chain (maskableSeen_of_step h)
  refine ⟨g s.chain, fun hends => congrFun (hreti hends) _, fun hends => congrFun (hother hends) _, hstep [],
    fun x rest => hstep (x :: rest), fun hin => ?_, fun x rest hin => ?_⟩ <;>
  · rw [ht, hin]
    exact ⟨rfl, rfl, rfl⟩

end Sys2Proof.Proofs

/-!
PROOFS of the statements of 70_reset_and_hazards.md: the end of a run, and the timing table.
-/

namespace Sys2Proof.Proofs

open Sys2Proof Sys2Proof.Machine

/-! ### The end of a run -/

theorem runEnded_iff (s : State) : s.runEnded = true ↔ s.endPc = some s.pc := beq_iff_eq

/-- The NMI entry goes on or is refused (R185). -/
theorem takeNmi_ne_fault (s : State) (r : Fault) : takeNmi s ≠ .fault r := by
  unfold takeNmi
  split_ifs <;> nofun

/-- The latching of the inputs adds no fault. -/
theorem eq_fault_of_afterStep {o : Host.Outcome State Fault Refusal} {r : Fault} (h : afterStep o = .fault r) :
    o = .fault r := by
  cases o with
  | fault => exact h
  | next | refused => cases h

/-- Past the first test of the boundary, nothing faults: neither the NMI entry nor any meaning (R180). -/
theorem runEnded_of_step_fault {s : State} {r : Fault} (h : step s = .fault r) : s.runEnded = true := by
  by_contra hend
  rw [step, if_neg hend] at h
  split at h
  · exact takeNmi_ne_fault s r (eq_fault_of_afterStep h)
  split at h
  · cases h
  split at h
  next x u hfetch =>
    obtain ⟨t, hexec, -⟩ := exec_effect x u
    cases hexec.symm.trans (eq_fault_of_afterStep h)
  · cases h

/-- Settles O11: the end of the run is the first test of a step, and the only one that faults. -/
theorem runEndsExactlyAtEndPc : Obligations.RunEndsExactlyAtEndPc := by
  intro s
  rw [← runEnded_iff]
  exact ⟨fun ⟨_, h⟩ => runEnded_of_step_fault h, fun hend => ⟨.endOfRun, if_pos hend⟩⟩

/-! ### The timing table -/

/-- The split of a row gives its other two columns: the number of M cycles, and 250 ns for each T state (R221). -/
theorem timing_of_tStates {x : Instr} {s : State} {ts : List Nat} (h : tStates x s = ts) :
    (mCycles x s, tStates x s, timeNs x s) = (ts.length, ts, 250 * ts.sum) := by
  rw [mCycles, timeNs, h, Config.clockHz, Nat.mul_comm]

/-- The split of RET cc: the two reads of the stack are there where the condition holds (R111, R220). -/
theorem tStates_retCc (cc : Cond) (s : State) :
    tStates (.retCc cc) s = if condHolds cc s.f = true then [5, 3, 3] else [5] := rfl

/-- The split of a repeat: the cycle of five states is added where B is not zero after the decrement (R220, C5). -/
theorem tStates_repeat {x : Instr} (hx : repeats x = true) (s : State) :
    tStates x s = if s.b - 1#8 = 0#8 then [4, 5, 3, 4] else [4, 5, 3, 4, 5] := by
  have hlast : s.b - 1#8 = 0#8 ↔ s.b = 1#8 := sub_eq_zero
  simp only [hlast]
  obtain rfl | rfl | rfl | rfl := (repeats_iff x).1 hx <;> rfl

/-- Settles O54: each row follows from its split, for RET cc and the repeats in both cases. -/
theorem timingTable : Obligations.TimingTable := by
  intro s cc p n r
  refine ⟨timing_of_tStates rfl, ?retCc, ?interruptReturn, timing_of_tStates rfl, ?directPort, ?registerPort, ?block,
    fun x hx => ?repeated⟩
  case retCc =>
    have hsplit := tStates_retCc cc s
    split_ifs at hsplit ⊢ <;> exact timing_of_tStates hsplit
  case repeated =>
    have hsplit := tStates_repeat hx s
    split_ifs at hsplit ⊢ <;> exact timing_of_tStates hsplit
  case interruptReturn | directPort | registerPort => rintro x (rfl | rfl) <;> exact timing_of_tStates rfl
  case block => rintro x (rfl | rfl | rfl | rfl) <;> exact timing_of_tStates rfl

end Sys2Proof.Proofs
